-- ==== Sys2Proof/Word.lean ====
section
/-! DEFINITION. The words of the F68 controller block: bytes, 32-bit operands, 96-bit command frames, access
sizes, and a fixed group of five like values (the counters). Rules: spec/00_scope.md R9, spec/20_memory.md R43,
spec/30_encoding.md R60, R62. -/

namespace Sys2Proof

/-- One byte of memory, of a bank or of the keyboard slot. -/
abbrev Byte := BitVec 8

/-- A 32-bit operand of a command: an address, a count, a scan code, a level, a data value (R60, R64). -/
abbrev Word := BitVec 32

/-- One interface command as it arrives: the 96-bit frame of R60, bit 0 the least significant. -/
abbrev Frame := BitVec 96

/-- The access size of an RD or WR (R43, R62). -/
inductive Size
  | b
  | w
  | l
deriving DecidableEq, Repr

/-- The size n in bytes (R62). -/
def Size.bytes : Size → Nat
  | .b => 1
  | .w => 2
  | .l => 4

/-- Five like values, one for each counter of the timer bank (R20, R24). -/
structure Five (α : Type) where
  t0 : α
  t1 : α
  t2 : α
  t3 : α
  t4 : α
deriving DecidableEq, Repr

/-- The value at index i. -/
def Five.get {α : Type} (f : Five α) (i : Fin 5) : α :=
  match i with
  | 0 => f.t0
  | 1 => f.t1
  | 2 => f.t2
  | 3 => f.t3
  | 4 => f.t4

/-- The five values a function gives. -/
def Five.ofFn {α : Type} (g : Fin 5 → α) : Five α :=
  { t0 := g 0, t1 := g 1, t2 := g 2, t3 := g 3, t4 := g 4 }

/-- The same five values with x at index i. -/
def Five.set {α : Type} (f : Five α) (i : Fin 5) (x : α) : Five α :=
  match i with
  | 0 => { f with t0 := x }
  | 1 => { f with t1 := x }
  | 2 => { f with t2 := x }
  | 3 => { f with t3 := x }
  | 4 => { f with t4 := x }

end Sys2Proof
end

