-- ==== Sys2Proof/Config.lean ====
section
/-! DEFINITION. The parameters of the block (spec/00_scope.md R6), the reference instantiation REFMAP, and the
free values. A configuration is plain data; Sys2Proof/WellFormed.lean says which ones are accepted (R8). Log
entries 1 (where the configuration stands), 2 (the three widths that are no parameters), 3 (how parameters that
are functions are written as data), 6 and 7 (the free values). -/

namespace Sys2Proof

/-- ADDR_WIDTH: the width of a bus address (R40, D4). Fixed, not a field: DEDUCED, safe, log entry 2. -/
def Config.addrWidth : Nat := 32

/-- The number of addresses of the space: addresses run from 0 to this minus 1 (R40). -/
def Config.addrSpace : Nat := 2 ^ Config.addrWidth

/-- NTIMERS: the counters of the bank (R20, R24). Fixed by Five: DEDUCED, safe, log entry 2. -/
def Config.ntimers : Nat := 5

/-- SCAN_WIDTH: the bits of a scan code operand, those of a Word (R64, D35). Fixed: DEDUCED, safe, log entry 2. -/
def Config.scanWidth : Nat := 32

/-- The four arbitrated interrupt groups (R110). -/
inductive Group
  | dispB
  | dispA
  | superIO
  | timer
deriving DecidableEq, Repr

/-- The groups in rank order, the highest first. The ranks are fixed policy (R110). -/
def Group.all : List Group := [.dispB, .dispA, .superIO, .timer]

/-- One value for each group. -/
structure PerGroup (α : Type) where
  dispB   : α
  dispA   : α
  superIO : α
  timer   : α
deriving DecidableEq, Repr

/-- The value for group g. -/
def PerGroup.get {α : Type} (p : PerGroup α) : Group → α
  | .dispB => p.dispB
  | .dispA => p.dispA
  | .superIO => p.superIO
  | .timer => p.timer

/-- TIMER_KIND: what advances a counter (R24). -/
inductive TimerKind
  | cycle
  | frame
deriving DecidableEq, Repr

/-- The parameters of one counter: TIMER_KIND, TIMER_EN_WORD, TIMER_EN_BIT, TIMER_WRITABLE (R6). -/
structure TimerParams where
  kind     : TimerKind
  enWord   : Fin 2
  enBit    : Nat
  writable : Bool
deriving DecidableEq, Repr

/-- VEC_SCAN: the byte ACK scans (R114, D10). -/
inductive VecScan
  | mask
  | active
deriving DecidableEq, Repr

/-- MEM_BYTE_ORDER (R41, R42). -/
inductive ByteOrder
  | big
  | little
deriving DecidableEq, Repr

/-- HOUR_MODE (R6, R153). -/
inductive HourMode
  | h24
  | h12
deriving DecidableEq, Repr

/-- The seven fields of the RTC snapshot (R6, R150). -/
inductive RtcField
  | sec
  | min
  | hour
  | day
  | wday
  | mon
  | year
deriving DecidableEq, Repr

/-- The fields in the order RD.RTC writes them (R150). -/
def RtcField.all : List RtcField := [.sec, .min, .hour, .day, .wday, .mon, .year]

/-- One value for each RTC field. -/
structure PerField (α : Type) where
  sec  : α
  min  : α
  hour : α
  day  : α
  wday : α
  mon  : α
  year : α
deriving DecidableEq, Repr

/-- The value for field f. -/
def PerField.get {α : Type} (p : PerField α) : RtcField → α
  | .sec => p.sec
  | .min => p.min
  | .hour => p.hour
  | .day => p.day
  | .wday => p.wday
  | .mon => p.mon
  | .year => p.year

/-- A day of the week (R151). -/
inductive Weekday
  | sunday
  | monday
  | tuesday
  | wednesday
  | thursday
  | friday
  | saturday
deriving DecidableEq, Repr, Inhabited

/-- The position of the day in the week from Sunday, 0 to 6: where WDAY_ENC's table lists its code. -/
def Weekday.position : Weekday → Nat
  | .sunday => 0
  | .monday => 1
  | .tuesday => 2
  | .wednesday => 3
  | .thursday => 4
  | .friday => 5
  | .saturday => 6

/-- A month (R151). -/
inductive Month
  | january
  | february
  | march
  | april
  | may
  | june
  | july
  | august
  | september
  | october
  | november
  | december
deriving DecidableEq, Repr, Inhabited

/-- The position of the month in the year, 0 to 11: where MON_ENC's table lists its code. -/
def Month.position : Month → Nat
  | .january => 0
  | .february => 1
  | .march => 2
  | .april => 3
  | .may => 4
  | .june => 5
  | .july => 6
  | .august => 7
  | .september => 8
  | .october => 9
  | .november => 10
  | .december => 11

/-- One reading of the wall clock. The types hold the ranges of R151 and nothing else: any such value may be
drawn. The day of the month is `mdayPred` + 1. -/
structure WallClock where
  sec      : Fin 61
  min      : Fin 60
  hour     : Fin 24
  mdayPred : Fin 31
  wday     : Weekday
  mon      : Month
  year     : Nat
deriving DecidableEq, Repr, Inhabited

/-- The day of the month, 1 to 31 (R151). -/
def WallClock.mday (t : WallClock) : Nat := t.mdayPred.val + 1

/-- The parameters of the block (R6). A parameter that the spec writes as a function stands here as a table (log
entry 3). -/
structure Config where
  /-- NGROUPS. -/
  ngroups     : Nat
  /-- GROUP_INDEX. -/
  groupIndex  : PerGroup Nat
  /-- LEVEL_OF_GROUP. -/
  levelOfGroup : PerGroup Nat
  /-- NONE_LEVEL. -/
  noneLevel   : Nat
  /-- REG_INDEX_OF_LEVEL, the levels with an index of their own. -/
  regIndexTable : List (Nat × Int)
  /-- REG_INDEX_OF_LEVEL of every other level l is l plus this. -/
  regIndexOffset : Int
  /-- REG_BASE, listed by register. -/
  regBase     : List Nat
  /-- VEC_SENTINEL. -/
  vecSentinel : Word
  /-- VEC_SCAN. -/
  vecScan     : VecScan
  /-- ICR_PEND_BASE. -/
  icrPendBase : Nat
  /-- ICR_MASK_BASE. -/
  icrMaskBase : Nat
  /-- KBD_ADDR. -/
  kbdAddr     : Nat
  /-- TIMER_BASE. -/
  timerBase   : Nat
  /-- TIMER_WIDTH. -/
  timerWidth  : Nat
  /-- TIMER_KIND, TIMER_EN_WORD, TIMER_EN_BIT, TIMER_WRITABLE. -/
  timers      : Five TimerParams
  /-- CTRL_ADDR(0). -/
  ctrlAddr0   : Nat
  /-- CTRL_ADDR(1). -/
  ctrlAddr1   : Nat
  /-- RTC_BASE. -/
  rtcBase     : Nat
  /-- RTC_SIZE. -/
  rtcSize     : Nat
  /-- RTC_OFF, the address of each field. -/
  rtcOff      : PerField Nat
  /-- HOUR_MODE. -/
  hourMode    : HourMode
  /-- WDAY_ENC, listed from Sunday. -/
  wdayEnc     : List Nat
  /-- MON_ENC, listed from January. -/
  monEnc      : List Nat
  /-- SCAN_TABLE; `none` is UNUSED, a value outside the scan-code domain (R141). -/
  scanTable   : List (Option Word)
  /-- DEBUG_KEY, as ranges of scan codes, both ends included. -/
  debugRanges : List (Nat × Nat)
  /-- KBD_IRQ_BIT. -/
  kbdIrqBit   : Nat
  /-- MEM_BYTE_ORDER. -/
  byteOrder   : ByteOrder
deriving DecidableEq, Repr

/-- REG_INDEX_OF_LEVEL(l): an integer that may be out of range (R6, R9). -/
def Config.regIndexOfLevel (c : Config) (l : Nat) : Int :=
  match c.regIndexTable.lookup l with
  | some r => r
  | none => (l : Int) + c.regIndexOffset

/-- CTRL_ADDR(k). -/
def Config.ctrlAddr (c : Config) (k : Fin 2) : Nat :=
  if k = 0 then c.ctrlAddr0 else c.ctrlAddr1

/-- DEBUG_KEY(code): the caller's filter of debugger function keys (R146). -/
def Config.debugKey (c : Config) (code : Word) : Bool :=
  c.debugRanges.any fun p => decide (p.1 ≤ code.toNat ∧ code.toNat ≤ p.2)

/-- A run of addresses from `base`, `size` bytes long. -/
structure Window where
  base : Nat
  size : Nat
deriving DecidableEq, Repr

/-- Address a lies in the window. -/
abbrev Window.Has (w : Window) (a : Nat) : Prop := w.base ≤ a ∧ a < w.base + w.size

/-- No address lies in both windows. -/
abbrev Window.Disjoint (v w : Window) : Prop :=
  v.size = 0 ∨ w.size = 0 ∨ v.base + v.size ≤ w.base ∨ w.base + w.size ≤ v.base

/-- The ICR pending sub-window (R48). -/
def Config.pendWindow (c : Config) : Window := { base := c.icrPendBase, size := c.ngroups }

/-- The ICR mask sub-window (R48). -/
def Config.maskWindow (c : Config) : Window := { base := c.icrMaskBase, size := c.ngroups }

/-- The keyboard address (R48). -/
def Config.kbdWindow (c : Config) : Window := { base := c.kbdAddr, size := 1 }

/-- The timer window (R48). -/
def Config.timerWindow (c : Config) : Window := { base := c.timerBase, size := 8 * Config.ntimers }

/-- The RTC window (R48). -/
def Config.rtcWindow (c : Config) : Window := { base := c.rtcBase, size := c.rtcSize }

/-- The special windows in the order of R48. -/
def Config.windows (c : Config) : List Window :=
  [c.pendWindow, c.maskWindow, c.kbdWindow, c.timerWindow, c.rtcWindow]

/-- REFMAP's SCAN_TABLE (R7): 128 entries, five of them used. -/
def Config.refScanTable : List (Option Word) :=
  [none, some 41, some 30, some 31, none, some 30] ++ List.replicate 121 none ++ [some 100]

/-- REFMAP, the reference instantiation of R6 and R7. It is the spec's own choice for its test vectors, "not a claim
about the original software": the model takes any accepted configuration, and only State.reset carries this one
(DESIGN CHOICE, log entry 1). -/
def Config.refmap : Config :=
  { ngroups := 4
    groupIndex := { dispB := 0, dispA := 1, superIO := 2, timer := 3 }
    levelOfGroup := { dispB := 1, dispA := 2, superIO := 3, timer := 4 }
    noneLevel := 0
    regIndexTable := []
    regIndexOffset := -1
    regBase := [0, 8, 16, 24]
    vecSentinel := 0xFFFFFFFF
    vecScan := .mask
    icrPendBase := 0x100
    icrMaskBase := 0x110
    kbdAddr := 0x200
    timerBase := 0x300
    timerWidth := 32
    timers :=
      { t0 := { kind := .cycle, enWord := 0, enBit := 0, writable := true }
        t1 := { kind := .cycle, enWord := 0, enBit := 1, writable := true }
        t2 := { kind := .frame, enWord := 0, enBit := 2, writable := true }
        t3 := { kind := .cycle, enWord := 1, enBit := 16, writable := true }
        t4 := { kind := .frame, enWord := 1, enBit := 16, writable := true } }
    ctrlAddr0 := 0x400
    ctrlAddr1 := 0x404
    rtcBase := 0x500
    rtcSize := 16
    rtcOff :=
      { sec := 0x500, min := 0x501, hour := 0x502, day := 0x503, wday := 0x504, mon := 0x505, year := 0x506 }
    hourMode := .h24
    wdayEnc := [0, 1, 2, 3, 4, 5, 6]
    monEnc := [1, 2, 3, 4, 5, 6, 7, 8, 9, 10, 11, 12]
    scanTable := Config.refScanTable
    debugRanges := [(58, 69)]
    kbdIrqBit := 0
    byteOrder := .big }

/-- FREE VALUE. HourEnc(h) under the 12-hour HOUR_MODE: the spec names the mode (R6) and gives no encoding for it
(R153); R152 bounds it by 99. DESIGN CHOICE, safe, log entry 6. -/
opaque Config.hourEnc12 : Fin 24 → Fin 100

/-- FREE VALUE. The wall-clock reading of draw number k when the environment's list of readings (State.clock) has
none left: any value in the ranges of R151. DESIGN CHOICE, safe, log entry 7. -/
opaque Config.wallClock : Nat → WallClock

end Sys2Proof
end

