-- ==== Sys2Proof/Syntax.lean ====
section
/-! DEFINITION. The commands of the block, one constructor for each row of spec/opcode_table.json. An operand is
the frame's own field (spec/30_encoding.md R64); what a field selects in the machine is decided in
Sys2Proof/Decode.lean and Sys2Proof/Machine/Operands.lean. -/

namespace Sys2Proof

/-- One command with its address decoded into a row of the opcode table (R61, R68). -/
inductive Instr
  /-- RD.PEND (R81). -/
  | rdPend (n : Size) (addr : Word)
  /-- RD.MASK (R82). -/
  | rdMask (n : Size) (addr : Word)
  /-- RD.KBD (R83). -/
  | rdKbd (n : Size) (addr : Word)
  /-- RD.TMR (R84). -/
  | rdTmr (n : Size) (addr : Word)
  /-- RD.TMRNA (R85). -/
  | rdTmrna (n : Size) (addr : Word)
  /-- RD.RTC (R150). -/
  | rdRtc (n : Size) (addr : Word)
  /-- RD.MEM (R87). -/
  | rdMem (n : Size) (addr : Word)
  /-- WR.PEND (R89). -/
  | wrPend (n : Size) (addr v : Word)
  /-- WR.MASK (R90). -/
  | wrMask (n : Size) (addr v : Word)
  /-- WR.TMR (R91). -/
  | wrTmr (n : Size) (addr v : Word)
  /-- WR.UNH (R92). -/
  | wrUnh (n : Size) (addr v : Word)
  /-- ADV (R130). -/
  | adv (cycles frames : Word)
  /-- KEY (R140). -/
  | key (code : Word) (isKeyDown : Bool)
  /-- ACK (R114). -/
  | ack (level : Word)
  /-- POLL (R112). -/
  | poll
  /-- RAISE (R118). -/
  | raise (r : Word) (b : BitVec 3)
  /-- RESET (R160). -/
  | reset
deriving DecidableEq, Repr

end Sys2Proof
end

