-- ==== Sys2Proof/WellFormed.lean ====
section
/-! DEFINITION. Which configurations are accepted (spec/00_scope.md R8) and which commands are well-formed: the
address conditions of spec/opcode_table.json's rows and the operand ranges of spec/30_encoding.md R63, R66. -/

namespace Sys2Proof

/-- R8: "`NGROUPS ≥ 4`, and `GROUP_INDEX` is injective into `[0, NGROUPS)`". -/
abbrev Config.GroupsOk (c : Config) : Prop :=
  4 ≤ c.ngroups ∧ (∀ g ∈ Group.all, c.groupIndex.get g < c.ngroups) ∧ (Group.all.map c.groupIndex.get).Nodup

/-- R8: LEVEL_OF_GROUP is injective, never NONE_LEVEL, and REG_INDEX_OF_LEVEL takes it back to GROUP_INDEX. -/
abbrev Config.LevelsOk (c : Config) : Prop :=
  (Group.all.map c.levelOfGroup.get).Nodup ∧ (∀ g ∈ Group.all, c.levelOfGroup.get g ≠ c.noneLevel) ∧
    ∀ g ∈ Group.all, c.regIndexOfLevel (c.levelOfGroup.get g) = (c.groupIndex.get g : Int)

/-- R8: the special windows are pairwise disjoint. -/
abbrev Config.WindowsOk (c : Config) : Prop := c.windows.Pairwise Window.Disjoint

/-- R8: every RTC_OFF(f) lies outside the ICR sub-windows, KBD_ADDR and the timer window. -/
abbrev Config.RtcOffsOk (c : Config) : Prop :=
  ∀ f ∈ RtcField.all, ∀ w ∈ [c.pendWindow, c.maskWindow, c.kbdWindow, c.timerWindow], ¬ w.Has (c.rtcOff.get f)

/-- R8: every byte of a control word lies outside all special windows. -/
abbrev Config.CtrlOk (c : Config) : Prop :=
  ∀ k ∈ [c.ctrlAddr0, c.ctrlAddr1], ∀ j ∈ [0, 1, 2, 3], ∀ w ∈ c.windows, ¬ w.Has (k + j)

/-- R8: TIMER_BASE is a multiple of 8 and TIMER_WIDTH is at least 1. -/
abbrev Config.TimerBankOk (c : Config) : Prop := c.timerBase % 8 = 0 ∧ 1 ≤ c.timerWidth

/-- The counters enabled by bit 16 of a control word. -/
def Config.bit16 (c : Config) : List TimerParams :=
  [c.timers.t0, c.timers.t1, c.timers.t2, c.timers.t3, c.timers.t4].filter fun t => t.enBit = 16

/-- R8: TIMER_EN_BIT(i) < 32, and exactly two counters have bit 16, of the same word. DEDUCED: no third counter may
have bit 16 of the other word (safe, log entry 5). -/
abbrev Config.EnablesOk (c : Config) : Prop :=
  (∀ t ∈ [c.timers.t0, c.timers.t1, c.timers.t2, c.timers.t3, c.timers.t4], t.enBit < 32) ∧
    c.bit16.length = 2 ∧ ∀ t ∈ c.bit16, ∀ u ∈ c.bit16, t.enWord = u.enWord

/-- R8: SCAN_TABLE has at most 128 entries (none from index 128 on) and KBD_IRQ_BIT < 8. -/
abbrev Config.KeyboardOk (c : Config) : Prop := c.scanTable.drop 128 = [] ∧ c.kbdIrqBit < 8

/-- DEDUCED from R40: every address a parameter names is an address of the space. Safe, log entry 4. -/
abbrev Config.AddressesOk (c : Config) : Prop :=
  (∀ w ∈ c.windows, w.base + w.size ≤ Config.addrSpace) ∧ (∀ f ∈ RtcField.all, c.rtcOff.get f < Config.addrSpace) ∧
    c.ctrlAddr0 + 4 ≤ Config.addrSpace ∧ c.ctrlAddr1 + 4 ≤ Config.addrSpace

/-- DEDUCED from R65 and R152: REG_BASE lists every register and its vectors fit 32 bits; WDAY_ENC and MON_ENC list
every argument and their codes lie in 0..99. Safe, log entry 4. -/
abbrev Config.TablesOk (c : Config) : Prop :=
  (c.regBase.length = c.ngroups ∧ ∀ b ∈ c.regBase, b + 71 < 2 ^ 32) ∧
    (c.wdayEnc.length = 7 ∧ ∀ v ∈ c.wdayEnc, v ≤ 99) ∧ c.monEnc.length = 12 ∧ ∀ v ∈ c.monEnc, v ≤ 99

/-- The checks before a configuration is accepted (R8): "A configuration that violates one is refused." -/
def Config.accepted (c : Config) : Bool :=
  decide c.GroupsOk && decide c.LevelsOk && decide c.WindowsOk && decide c.RtcOffsOk && decide c.CtrlOk &&
    decide c.TimerBankOk && decide c.EnablesOk && decide c.KeyboardOk && decide c.AddressesOk && decide c.TablesOk

/-- Address a is that of a counter: in the timer window and a multiple of 8 from its base (R44, R80). -/
abbrev Config.TimerAligned (c : Config) (a : Nat) : Prop := c.timerWindow.Has a ∧ (a - c.timerBase) % 8 = 0

/-- Address a is that of a counter which WR reaches (R88). -/
abbrev Config.TimerWritableAt (c : Config) (a : Nat) : Prop :=
  c.TimerAligned a ∧ (c.timers.get (Fin.ofNat 5 ((a - c.timerBase) / 8))).writable = true

/-- R63: in a WR, D[31:8n] is zero. -/
abbrev Size.Holds (n : Size) (v : Word) : Prop := v.toNat < 2 ^ (8 * n.bytes)

/-- A command is well-formed under a configuration when its row's `addr_decode` in spec/opcode_table.json holds of
its address and its operands are in the ranges of R63. -/
def Instr.wellFormed (c : Config) : Instr → Bool
  | .rdPend _ a => decide (c.pendWindow.Has a.toNat)
  | .rdMask _ a => decide (c.maskWindow.Has a.toNat)
  | .rdKbd _ a => decide (a.toNat = c.kbdAddr)
  | .rdTmr _ a => decide (c.TimerAligned a.toNat)
  | .rdTmrna _ a => decide (c.timerWindow.Has a.toNat ∧ (a.toNat - c.timerBase) % 8 ≠ 0)
  | .rdRtc _ a => decide (c.rtcWindow.Has a.toNat)
  | .rdMem _ a => decide (∀ w ∈ c.windows, ¬ w.Has a.toNat)
  | .wrPend n a v => decide (c.pendWindow.Has a.toNat ∧ n.Holds v)
  | .wrMask n a v => decide (c.maskWindow.Has a.toNat ∧ n.Holds v)
  | .wrTmr n a v => decide (c.TimerWritableAt a.toNat ∧ n.Holds v)
  | .wrUnh n a v =>
    decide (¬ c.pendWindow.Has a.toNat ∧ ¬ c.maskWindow.Has a.toNat ∧ ¬ c.TimerWritableAt a.toNat ∧ n.Holds v)
  | .raise r _ => decide (r.toNat < c.ngroups)
  | .adv _ _ => true
  | .key _ _ => true
  | .ack _ => true
  | .poll => true
  | .reset => true

end Sys2Proof
end

