-- ==== Sys2Proof/Decode.lean ====
section
/-! DEFINITION. The decoder of command frames, total on every 96-bit frame and rejecting by name
(spec/30_encoding.md R60-R68), the address decode of RD and WR (spec/40_bus_access.md R80, R88), and after them
the encoder, written from the same tables. -/

namespace Sys2Proof

/-- Why a frame is illegal (R66). -/
inductive DecodeError
  /-- OP is 0x00 or 0x09-0xFF. -/
  | reservedOpcode
  /-- SZ is 11 in an RD or WR. -/
  | reservedSize
  /-- SZ is not 00 in another command. -/
  | sizeNotZero
  /-- A bit of RSV is not zero. -/
  | reservedField
  /-- A bit of A or D that R63 or R64 requires zero is not. -/
  | operandNotZero
  /-- A RAISE whose A is not below NGROUPS. -/
  | groupOutOfRange
deriving DecidableEq, Repr

/-- OP, bits [95:88] (R60). -/
def Frame.op (f : Frame) : BitVec 8 := f.extractLsb' 88 8

/-- SZ, bits [87:86] (R60). -/
def Frame.sz (f : Frame) : BitVec 2 := f.extractLsb' 86 2

/-- RSV, bits [85:64] (R60). -/
def Frame.rsv (f : Frame) : BitVec 22 := f.extractLsb' 64 22

/-- A, bits [63:32] (R60). -/
def Frame.a (f : Frame) : Word := f.extractLsb' 32 32

/-- D, bits [31:0] (R60). -/
def Frame.d (f : Frame) : Word := f.extractLsb' 0 32

/-- A command before its address is decoded: the eight opcodes of R61 with the operands of R64. -/
inductive Command
  | rd (n : Size) (addr : Word)
  | wr (n : Size) (addr v : Word)
  | adv (cycles frames : Word)
  | key (code : Word) (isKeyDown : Bool)
  | ack (level : Word)
  | poll
  | raise (r : Word) (b : BitVec 3)
  | reset
deriving DecidableEq, Repr

/-- The size a code of SZ gives (R62). -/
def decodeSize (sz : BitVec 2) : Option Size :=
  match sz.toNat with
  | 0 => some .b
  | 1 => some .w
  | 2 => some .l
  | _ => none

/-- RD (R64): addr = A, n from SZ, D zero. -/
def decodeRd (f : Frame) : Except DecodeError Command :=
  match decodeSize f.sz with
  | none => .error .reservedSize
  | some n => if f.d = 0#32 then .ok (.rd n f.a) else .error .operandNotZero

/-- WR (R63, R64): addr = A, n from SZ, v = D with D[31:8n] zero. -/
def decodeWr (f : Frame) : Except DecodeError Command :=
  match decodeSize f.sz with
  | none => .error .reservedSize
  | some n => if n.Holds f.d then .ok (.wr n f.a f.d) else .error .operandNotZero

/-- The commands other than RD and WR (R63, R64): SZ is zero, and so is every operand bit the command does not use. -/
def decodePlain (c : Config) (f : Frame) : Except DecodeError Command :=
  match f.op.toNat with
  | 3 => .ok (.adv f.a f.d)
  | 4 => if f.d.toNat < 2 then .ok (.key f.a (f.d.getLsbD 0)) else .error .operandNotZero
  | 5 => if f.d = 0#32 then .ok (.ack f.a) else .error .operandNotZero
  | 6 => if f.a = 0#32 ∧ f.d = 0#32 then .ok .poll else .error .operandNotZero
  | 7 =>
    if f.d.toNat < 8 then
      if f.a.toNat < c.ngroups then .ok (.raise f.a (f.d.extractLsb' 0 3)) else .error .groupOutOfRange
    else .error .operandNotZero
  | 8 => if f.a = 0#32 ∧ f.d = 0#32 then .ok .reset else .error .operandNotZero
  | _ => .error .reservedOpcode

/-- Steps 1 to 3 of R68: RSV, OP, SZ and the zero fields. -/
def decodeCommand (c : Config) (f : Frame) : Except DecodeError Command :=
  if f.rsv = 0#22 then
    match f.op.toNat with
    | 1 => decodeRd f
    | 2 => decodeWr f
    | n =>
      if n = 0 ∨ 8 < n then .error .reservedOpcode
      else if f.sz = 0#2 then decodePlain c f
      else .error .sizeNotZero
  else .error .reservedField

/-- What an RD address selects (R80). -/
inductive ReadTarget
  | pend
  | mask
  | kbd
  | tmr
  | tmrna
  | rtc
  | mem
deriving DecidableEq, Repr

/-- RD dispatch, on the start address only (R80). -/
def readTarget (c : Config) (addr : Word) : ReadTarget :=
  if c.pendWindow.Has addr.toNat then .pend
  else if c.maskWindow.Has addr.toNat then .mask
  else if addr.toNat = c.kbdAddr then .kbd
  else if c.timerWindow.Has addr.toNat then
    if (addr.toNat - c.timerBase) % 8 = 0 then .tmr else .tmrna
  else if c.rtcWindow.Has addr.toNat then .rtc
  else .mem

/-- What a WR address selects (R88). -/
inductive WriteTarget
  | pend
  | mask
  | tmr
  | unh
deriving DecidableEq, Repr

/-- WR dispatch, on the start address only (R88). -/
def writeTarget (c : Config) (addr : Word) : WriteTarget :=
  if c.pendWindow.Has addr.toNat then .pend
  else if c.maskWindow.Has addr.toNat then .mask
  else if c.TimerWritableAt addr.toNat then .tmr
  else .unh

/-- Step 4 of R68: the row of the opcode table that a command selects. -/
def selectRow (c : Config) : Command → Instr
  | .rd n addr =>
    match readTarget c addr with
    | .pend => .rdPend n addr
    | .mask => .rdMask n addr
    | .kbd => .rdKbd n addr
    | .tmr => .rdTmr n addr
    | .tmrna => .rdTmrna n addr
    | .rtc => .rdRtc n addr
    | .mem => .rdMem n addr
  | .wr n addr v =>
    match writeTarget c addr with
    | .pend => .wrPend n addr v
    | .mask => .wrMask n addr v
    | .tmr => .wrTmr n addr v
    | .unh => .wrUnh n addr v
  | .adv cycles frames => .adv cycles frames
  | .key code down => .key code down
  | .ack level => .ack level
  | .poll => .poll
  | .raise r b => .raise r b
  | .reset => .reset

/-- The decoder (R68). -/
def decode (c : Config) (f : Frame) : Except DecodeError Instr :=
  match decodeCommand c f with
  | .ok m => .ok (selectRow c m)
  | .error e => .error e

/-- The host's probe: the command of the frame whose bits are w, decoded under the configuration State.reset
carries. A frame is one word of 96 bits, so w is the frame; bits from nbits up are zero. -/
def decodeTableWord (nbits w : Nat) : Option Instr :=
  match decode Config.refmap (BitVec.ofNat 96 (w % 2 ^ nbits)) with
  | .ok i => some i
  | .error _ => none

/-- A frame from its fields (R60). -/
def Frame.make (op : BitVec 8) (sz : BitVec 2) (rsv : BitVec 22) (a d : Word) : Frame := op ++ sz ++ rsv ++ a ++ d

/-- The code of a size in SZ (R62). -/
def Size.code : Size → BitVec 2
  | .b => 0
  | .w => 1
  | .l => 2

/-- The frame of a command (R61, R64). -/
def Command.frame : Command → Frame
  | .rd n addr => Frame.make 0x01 n.code 0 addr 0
  | .wr n addr v => Frame.make 0x02 n.code 0 addr v
  | .adv cycles frames => Frame.make 0x03 0 0 cycles frames
  | .key code down => Frame.make 0x04 0 0 code (if down then 1 else 0)
  | .ack level => Frame.make 0x05 0 0 level 0
  | .poll => Frame.make 0x06 0 0 0 0
  | .raise r b => Frame.make 0x07 0 0 r (b.setWidth 32)
  | .reset => Frame.make 0x08 0 0 0 0

/-- The command of a row: its address decode undone. -/
def Instr.command : Instr → Command
  | .rdPend n a => .rd n a
  | .rdMask n a => .rd n a
  | .rdKbd n a => .rd n a
  | .rdTmr n a => .rd n a
  | .rdTmrna n a => .rd n a
  | .rdRtc n a => .rd n a
  | .rdMem n a => .rd n a
  | .wrPend n a v => .wr n a v
  | .wrMask n a v => .wr n a v
  | .wrTmr n a v => .wr n a v
  | .wrUnh n a v => .wr n a v
  | .adv cycles frames => .adv cycles frames
  | .key code down => .key code down
  | .ack level => .ack level
  | .poll => .poll
  | .raise r b => .raise r b
  | .reset => .reset

/-- The encoder: the frame of an instruction (R60-R64). -/
def encode (i : Instr) : Frame := i.command.frame

end Sys2Proof
end

