-- ==== Sys2Proof/Machine/State.lean ====
section
/-! DEFINITION. The state of the machine as plain data: the block's own state (spec/10_state.md R20), the memory M it
shares with its caller (R31), and the model's inputs and outputs: the configuration (spec/00_scope.md R6), the
frames that have arrived (R5), the wall-clock readings (R32), the response of the last command
(spec/30_encoding.md R65). Log entries 1, 3, 7, 8, 9, 10, 14, 16. -/

namespace Sys2Proof.Machine

open Sys2Proof

/-- A diagnostic event. Its text is unspecified, so it is a unit event (R171, log entry 14). -/
inductive Diag
  | event
deriving DecidableEq, Repr

/-- The response record of a command (R65). -/
structure Response where
  rdata   : Word
  handled : Bool
  level   : Nat
  vector  : Word
  signals : List Nat
  diags   : List Diag
deriving DecidableEq, Repr

/-- The defaults of R65, for the fields a command does not set. -/
def Response.default (c : Config) : Response :=
  { rdata := 0, handled := false, level := c.noneLevel, vector := 0, signals := [], diags := [] }

/-- The external memory M: its bytes by address, in one canonical form (see Memory.wf). -/
abbrev Memory := List Host.Cell

/-- What an address that memory does not list reads as. The spec leaves M's power-up content open (R36): DESIGN
CHOICE 0x00, unsafe for claims about State.reset alone, log entry 8. -/
def unlistedByte : Byte := 0x00

/-- The canonical form: addresses strictly rise from `low`, lie in the space, and no entry equals what an unlisted
address reads as. -/
def Memory.wfFrom (low : Nat) : Memory → Bool
  | [] => true
  | (k, v) :: rest => decide (low ≤ k ∧ k < Config.addrSpace ∧ v ≠ unlistedByte) && Memory.wfFrom (k + 1) rest

/-- The canonical form of a memory. -/
def Memory.wf (m : Memory) : Bool := Memory.wfFrom 0 m

/-- The state of the machine. -/
structure State where
  /-- The parameters (R6). No command changes them. Log entry 1. -/
  cfg    : Config
  /-- The pending bank, one byte for each group index (R21). -/
  pend   : List Byte
  /-- The mask bank, one byte for each group index; a set bit disables the line (R22). -/
  mask   : List Byte
  /-- The five counters, each below 2^TIMER_WIDTH (R24). -/
  timer  : Five Nat
  /-- The keyboard slot (R25). -/
  kbd    : Byte
  /-- The external memory M (R31); the control words (R29) and the RTC bytes (R30) are bytes of it. -/
  mem    : Memory
  /-- INPUT. The frames that have arrived, the next one first (R5). Log entry 9. -/
  queue  : List Frame
  /-- INPUT. The wall-clock readings supplied for the RTC reads to come, the next one first (R32). Log entry 7. -/
  clock  : List WallClock
  /-- How many readings were drawn: the index of the free value Config.wallClock. Log entry 7. -/
  draws  : Nat
  /-- OUTPUT. The response of the last accepted command (R65). No command reads it. Log entry 10. -/
  resp   : Response
deriving DecidableEq, Repr

/-- Why the machine faults: never. "The block raises no synchronous exception. No command traps, faults or aborts"
(R170), so there is no constructor. Safe: nothing stops. -/
inductive Fault
deriving DecidableEq, Repr

/-- Why a command has no meaning. -/
inductive Refusal
  /-- Raised by exec for an instruction without a meaning yet; no arm does. Safe: nothing is proved of it. -/
  | notModelled (mnemonic : String)
  /-- Raised by step for an illegal frame (R66, R161), and by RAISE for a group index out of range. Safe: the spec
  gives such a frame no meaning. -/
  | illegalFrame (e : DecodeError)
  /-- Raised by RD.TMRNA, RD.RTC, RD.MEM and WR.UNH when their bytes would run past the top of memory (R41, R161).
  Safe: the spec refuses it. Log entry 12. -/
  | pastTop
  /-- Raised by step under a configuration that breaks R8: "A configuration that violates one is refused." Safe. -/
  | configuration
  /-- Raised by an RD or WR row whose address selects another row: a term of Instr that no frame decodes to. Safe:
  step never answers it. Log entry 13. -/
  | rowNotSelected
deriving DecidableEq, Repr

/-- The state after reset under configuration c (R36, R190): pend, mask, timer and kbd zero, M with nothing listed,
no frame waiting, no reading supplied, the response RESET itself returns. -/
def State.resetWith (c : Config) : State :=
  { cfg := c
    pend := List.replicate c.ngroups 0x00
    mask := List.replicate c.ngroups 0x00
    timer := { t0 := 0, t1 := 0, t2 := 0, t3 := 0, t4 := 0 }
    kbd := 0x00
    mem := []
    queue := []
    clock := []
    draws := 0
    resp := Response.default c }

/-- The machine right after reset, under REFMAP (DESIGN CHOICE, log entry 1). -/
def State.reset : State := State.resetWith Config.refmap

end Sys2Proof.Machine
end

