-- ==== Sys2Proof/Machine/Ops.lean ====
section
/-! DEFINITION. The named operations over memory, the banks, the counters, the inputs and the outputs. There is no
exception to take and none to return from: "The block raises no synchronous exception"
(spec/60_exceptions.md R170), and interrupt entry and return belong to the CPU executor (R175, R176). -/

namespace Sys2Proof.Machine

open Sys2Proof

/-- M[a] (spec/20_memory.md R40). -/
def readByte : Memory → Nat → Byte
  | [], _ => unlistedByte
  | (k, v) :: rest, a => if k = a then v else readByte rest a

/-- M[a] <- b, keeping the canonical form. -/
def writeByte : Memory → Nat → Byte → Memory
  | [], a, b => if b = unlistedByte then [] else [(a, b)]
  | (k, v) :: rest, a, b =>
    if a < k then
      if b = unlistedByte then (k, v) :: rest else (a, b) :: (k, v) :: rest
    else if a = k then
      if b = unlistedByte then rest else (a, b) :: rest
    else (k, v) :: writeByte rest a b

/-- The n bytes from address a up. -/
def readBytes (m : Memory) : Nat → Nat → List Byte
  | _, 0 => []
  | a, n + 1 => readByte m a :: readBytes m (a + 1) n

/-- Bytes written from address a up. -/
def writeBytes : Memory → Nat → List Byte → Memory
  | m, _, [] => m
  | m, a, b :: bs => writeBytes (writeByte m a b) (a + 1) bs

/-- The value of bytes listed from the least significant. -/
def valueOfBytes : List Byte → Nat
  | [] => 0
  | b :: bs => b.toNat + 256 * valueOfBytes bs

/-- The n low bytes of a value, from the least significant. -/
def bytesOfValue : Nat → Nat → List Byte
  | 0, _ => []
  | n + 1, v => BitVec.ofNat 8 v :: bytesOfValue n (v / 256)

/-- Bytes in address order to or from bytes listed from the least significant (R41). -/
def orderBytes : ByteOrder → List Byte → List Byte
  | .big, bs => bs.reverse
  | .little, bs => bs

/-- MemRead(a, n) (R41). -/
def memRead (o : ByteOrder) (m : Memory) (a n : Nat) : Nat := valueOfBytes (orderBytes o (readBytes m a n))

/-- MemWrite(a, n, v) (R41). -/
def memWrite (o : ByteOrder) (m : Memory) (a n v : Nat) : Memory := writeBytes m a (orderBytes o (bytesOfValue n v))

/-- An access of n bytes at a lies in the address space: a + n ≤ 2^32 (R41). -/
abbrev Fits (a n : Nat) : Prop := a + n ≤ Config.addrSpace

/-- trunc_w(v) (spec/00_scope.md R9). -/
def trunc (w v : Nat) : Nat := v % 2 ^ w

/-- Byte r of a bank. A list shorter than NGROUPS, which no run reaches, reads 0x00 there (log entry 16). -/
def bankByte (bank : List Byte) (r : Nat) : Byte := bank.getD r 0x00

/-- The state with another pending bank. -/
def State.setPend (s : State) (bank : List Byte) : State := { s with pend := bank }

/-- The state with another mask bank. -/
def State.setMask (s : State) (bank : List Byte) : State := { s with mask := bank }

/-- The state with other counters. -/
def State.setTimer (s : State) (t : Five Nat) : State := { s with timer := t }

/-- The state with another byte in the keyboard slot. -/
def State.setKbd (s : State) (b : Byte) : State := { s with kbd := b }

/-- The state with another memory. -/
def State.setMem (s : State) (m : Memory) : State := { s with mem := m }

/-- The state with a command's response (R65). -/
def State.respond (s : State) (r : Response) : State := { s with resp := r }

/-- pend[r] <- pend[r] | (1 << b): RAISE (R118) and KEY (R144). -/
def State.setPending (s : State) (r b : Nat) : State :=
  s.setPend (s.pend.set r (bankByte s.pend r ||| (1 : Byte) <<< b))

/-- pend[r] <- pend[r] & ~v: the write-1-to-clear of R89. -/
def State.clearPending (s : State) (r : Nat) (v : Byte) : State :=
  s.setPend (s.pend.set r (bankByte s.pend r &&& ~~~v))

/-- mask[r] <- v (R90). -/
def State.setMaskByte (s : State) (r : Nat) (v : Byte) : State := s.setMask (s.mask.set r v)

/-- active of the group with bank index r: pend & ~mask (R11). -/
def activeByte (s : State) (r : Nat) : Byte := bankByte s.pend r &&& ~~~bankByte s.mask r

/-- HighestPending over a list of groups in rank order (R112). -/
def highestAmong (s : State) : List Group → Nat
  | [] => s.cfg.noneLevel
  | g :: gs => if activeByte s (s.cfg.groupIndex.get g) ≠ 0 then s.cfg.levelOfGroup.get g else highestAmong s gs

/-- HighestPending(S) (R112). -/
def highestPending (s : State) : Nat := highestAmong s Group.all

/-- The output irq_level, a function of pend and mask only (R33). -/
def irqLevel (s : State) : Nat := highestPending s

/-- The wall-clock reading the next RD.RTC draws (R151): the next one supplied, or a free value (log entry 7). -/
def State.nextReading (s : State) : WallClock := s.clock.head?.getD (Config.wallClock s.draws)

/-- The state after a reading is drawn: one draw per command (R150). -/
def State.afterDraw (s : State) : State := { s with clock := s.clock.tail, draws := s.draws + 1 }

/-- The next frame and the state without it, or nothing when none has arrived (R5). -/
def State.takeFrame (s : State) : Option (Frame × State) :=
  match s.queue with
  | [] => none
  | f :: rest => some (f, { s with queue := rest })

/-- The state in which frame f is the next to be performed (log entry 9). -/
def State.offer (s : State) (f : Frame) : State := { s with queue := f :: s.queue }

end Sys2Proof.Machine
end

