-- ==== Sys2Proof/Machine/Operands.lean ====
section
/-! DEFINITION. What the operands of a command select in the machine: a bank byte, a counter, a number of bits of a
data value, a register for a level, an entry of the scan table, a field of the RTC. -/

namespace Sys2Proof.Machine

open Sys2Proof

/-- r = addr − ICR_PEND_BASE (spec/40_bus_access.md R81, R89). -/
def pendIndex (c : Config) (addr : Word) : Nat := addr.toNat - c.icrPendBase

/-- r = addr − ICR_MASK_BASE (R82, R90). -/
def maskIndex (c : Config) (addr : Word) : Nat := addr.toNat - c.icrMaskBase

/-- i = (addr − TIMER_BASE) >> 3 (R80, R88). -/
def timerIndex (c : Config) (addr : Word) : Fin 5 := Fin.ofNat 5 ((addr.toNat - c.timerBase) / 8)

/-- v[7:0] (R89, R90). -/
def lowByte (v : Word) : Byte := v.setWidth 8

/-- zext_32 of a byte. -/
def zextByte (b : Byte) : Word := b.setWidth 32

/-- The n-byte value at addr, as read data (R85, R87, spec/44_rtc.md R150). -/
def dataAt (s : State) (addr : Word) (n : Size) : Word :=
  BitVec.ofNat 32 (memRead s.cfg.byteOrder s.mem addr.toNat n.bytes)

/-- zext_32(trunc_{8n}(counter)) (R84). -/
def timerData (s : State) (addr : Word) (n : Size) : Word :=
  BitVec.ofNat 32 (trunc (8 * n.bytes) (s.timer.get (timerIndex s.cfg addr)))

/-- The control word k as ADV samples it: MemRead(CTRL_ADDR(k), 4) (spec/42_timers.md R130). -/
def ctrlWord (s : State) (k : Fin 2) : Nat := memRead s.cfg.byteOrder s.mem (s.cfg.ctrlAddr k) 4

/-- Counter i's enable bit is 1 in its control word (R131). -/
def timerEnabled (s : State) (i : Fin 5) : Bool :=
  (ctrlWord s (s.cfg.timers.get i).enWord).testBit (s.cfg.timers.get i).enBit

/-- The count a counter of this kind gains in a slice (R130). -/
def sliceCount (kind : TimerKind) (cycles frames : Word) : Nat :=
  match kind with
  | .cycle => cycles.toNat
  | .frame => frames.toNat

/-- lsb(m): the index of the lowest set bit of a byte that is not zero (spec/00_scope.md R9). -/
def lsb (m : Byte) : Nat := [0, 1, 2, 3, 4, 5, 6, 7].findIdx fun b => m.getLsbD b

/-- The byte ACK scans in register r (spec/41_interrupt_arbiter.md R114). -/
def scannedByte (s : State) (r : Nat) : Byte :=
  match s.cfg.vecScan with
  | .mask => bankByte s.mask r
  | .active => activeByte s r

/-- REG_BASE(r) + b + 64 (R114). -/
def vectorNumber (c : Config) (r b : Nat) : Word := BitVec.ofNat 32 (c.regBase.getD r 0 + b + 64)

/-- The lowest index whose SCAN_TABLE entry is the code; an UNUSED entry equals no code (spec/43_keyboard.md
R141). -/
def scanLookup (c : Config) (code : Word) : Option Nat := c.scanTable.findIdx? fun e => e == some code

/-- The event byte: the release bit over the seven index bits (R142). -/
def eventByte (isKeyDown : Bool) (idx : Nat) : Byte := BitVec.ofBool (!isKeyDown) ++ BitVec.ofNat 7 idx

/-- BCD(v) for 0 ≤ v ≤ 99 (spec/44_rtc.md R152). -/
def bcd (v : Nat) : Byte := BitVec.ofNat 8 ((v / 10) <<< 4 ||| v % 10)

/-- HourEnc(h) (R153): h in the 24-hour mode; a free value in the 12-hour mode (log entry 6). -/
def hourEnc (c : Config) (h : Fin 24) : Nat :=
  match c.hourMode with
  | .h24 => h.val
  | .h12 => (Config.hourEnc12 h).val

/-- The value of an RTC field before BCD (R150, R153). -/
def rtcValue (c : Config) (t : WallClock) : RtcField → Nat
  | .sec => t.sec.val
  | .min => t.min.val
  | .hour => hourEnc c t.hour
  | .day => t.mday
  | .wday => c.wdayEnc.getD t.wday.position 0
  | .mon => c.monEnc.getD t.mon.position 0
  | .year => t.year % 100

/-- M after the seven byte writes of a snapshot, in R150's order. -/
def snapshot (c : Config) (t : WallClock) (m : Memory) : Memory :=
  RtcField.all.foldl (fun m f => writeByte m (c.rtcOff.get f) (bcd (rtcValue c t f))) m

end Sys2Proof.Machine
end

