-- ==== Sys2Proof/Machine/Flags.lean ====
section
/-! DEFINITION. The block has no flags (spec/10_state.md R28); what the spec's templates call "Flags" are the response
fields a command sets (spec/40_bus_access.md). Each operation here sets those fields and gives the others their
defaults (spec/30_encoding.md R65). -/

namespace Sys2Proof.Machine

open Sys2Proof

/-- No response field is set: ADV, RAISE, RESET, and a KEY that does nothing. -/
def State.respondNone (s : State) : State := s.respond (Response.default s.cfg)

/-- respond(rdata = w): RD. -/
def State.respondData (s : State) (w : Word) : State := s.respond { Response.default s.cfg with rdata := w }

/-- respond(handled = h): WR (R93). -/
def State.respondHandled (s : State) (h : Bool) : State := s.respond { Response.default s.cfg with handled := h }

/-- respond(level = l): POLL. -/
def State.respondLevel (s : State) (l : Nat) : State := s.respond { Response.default s.cfg with level := l }

/-- respond(vector = v) with no diagnostic: ACK. -/
def State.respondVector (s : State) (v : Word) : State := s.respond { Response.default s.cfg with vector := v }

/-- The two failure cases of ACK: one Diag and the sentinel (R115, R116, R171). -/
def State.respondSentinel (s : State) : State :=
  s.respond { Response.default s.cfg with vector := s.cfg.vecSentinel, diags := [.event] }

/-- emit Signal(l): a KEY that is taken (R145). -/
def State.respondSignal (s : State) (l : Nat) : State := s.respond { Response.default s.cfg with signals := [l] }

end Sys2Proof.Machine
end

