-- ==== Sys2Proof/Machine/Arbiter.lean ====
section
/-! DEFINITION. POLL, ACK and RAISE (spec/41_interrupt_arbiter.md R112-R119). -/

namespace Sys2Proof.Machine

open Sys2Proof

/-- POLL (R112). -/
def execPoll (s : State) : Host.Outcome State Fault Refusal := .next (s.respondLevel (highestPending s))

/-- ACK (R114): only the response changes (R117). -/
def execAck (level : Word) (s : State) : Host.Outcome State Fault Refusal :=
  let r := s.cfg.regIndexOfLevel level.toNat
  if r < 0 ∨ (s.cfg.ngroups : Int) ≤ r then .next s.respondSentinel
  else if scannedByte s r.toNat = 0 then .next s.respondSentinel
  else .next (s.respondVector (vectorNumber s.cfg r.toNat (lsb (scannedByte s r.toNat))))

/-- RAISE (R118). A group index that is not below NGROUPS is an illegal frame (R66). -/
def execRaise (r : Word) (b : BitVec 3) (s : State) : Host.Outcome State Fault Refusal :=
  if r.toNat < s.cfg.ngroups then .next (s.setPending r.toNat b.toNat).respondNone
  else .refused (.illegalFrame .groupOutOfRange)

end Sys2Proof.Machine
end

