-- ==== Sys2Proof/Machine/BusRead.lean ====
section
/-! DEFINITION. The RD rows (spec/40_bus_access.md R80-R87, spec/44_rtc.md R150). Each row runs on the addresses that
select it (R80). -/

namespace Sys2Proof.Machine

open Sys2Proof

/-- RD.PEND (R81): one byte of the pending bank, whatever the size. -/
def execRdPend (_n : Size) (addr : Word) (s : State) : Host.Outcome State Fault Refusal :=
  if readTarget s.cfg addr = .pend then
    .next (s.respondData (zextByte (bankByte s.pend (pendIndex s.cfg addr))))
  else .refused .rowNotSelected

/-- RD.MASK (R82): one byte of the mask bank, whatever the size. -/
def execRdMask (_n : Size) (addr : Word) (s : State) : Host.Outcome State Fault Refusal :=
  if readTarget s.cfg addr = .mask then
    .next (s.respondData (zextByte (bankByte s.mask (maskIndex s.cfg addr))))
  else .refused .rowNotSelected

/-- RD.KBD (R83): the slot is read, then cleared. -/
def execRdKbd (_n : Size) (addr : Word) (s : State) : Host.Outcome State Fault Refusal :=
  if readTarget s.cfg addr = .kbd then
    .next ((s.setKbd 0x00).respondData (zextByte s.kbd))
  else .refused .rowNotSelected

/-- RD.TMR (R84): the low n bytes of a counter, moved as a number. -/
def execRdTmr (n : Size) (addr : Word) (s : State) : Host.Outcome State Fault Refusal :=
  if readTarget s.cfg addr = .tmr then
    .next (s.respondData (timerData s addr n))
  else .refused .rowNotSelected

/-- A read of plain memory (R85, R87), refused when its bytes run past the top (R41). -/
def readMemory (n : Size) (addr : Word) (s : State) : Host.Outcome State Fault Refusal :=
  if Fits addr.toNat n.bytes then .next (s.respondData (dataAt s addr n))
  else .refused .pastTop

/-- RD.TMRNA (R85): a timer-window address that is not aligned reads plain memory. -/
def execRdTmrna (n : Size) (addr : Word) (s : State) : Host.Outcome State Fault Refusal :=
  if readTarget s.cfg addr = .tmrna then readMemory n addr s
  else .refused .rowNotSelected

/-- The state after RD.RTC's draw and its seven byte writes (R150). -/
def State.afterSnapshot (s : State) : State := s.afterDraw.setMem (snapshot s.cfg s.nextReading s.mem)

/-- RD.RTC (R150): one draw, the snapshot, then the memory read. Refused before any effect when the bytes to be read
run past the top (R161). -/
def execRdRtc (n : Size) (addr : Word) (s : State) : Host.Outcome State Fault Refusal :=
  if readTarget s.cfg addr = .rtc then
    if Fits addr.toNat n.bytes then
      .next (s.afterSnapshot.respondData (dataAt s.afterSnapshot addr n))
    else .refused .pastTop
  else .refused .rowNotSelected

/-- RD.MEM (R87). -/
def execRdMem (n : Size) (addr : Word) (s : State) : Host.Outcome State Fault Refusal :=
  if readTarget s.cfg addr = .mem then readMemory n addr s
  else .refused .rowNotSelected

end Sys2Proof.Machine
end

