-- ==== Sys2Proof/Machine/BusWrite.lean ====
section
/-! DEFINITION. The WR rows (spec/40_bus_access.md R88-R93). Each row runs on the addresses that select it (R88). -/

namespace Sys2Proof.Machine

open Sys2Proof

/-- WR.PEND (R89): v[7:0] clears bits of one pending byte, whatever the size. -/
def execWrPend (_n : Size) (addr v : Word) (s : State) : Host.Outcome State Fault Refusal :=
  if writeTarget s.cfg addr = .pend then
    .next ((s.clearPending (pendIndex s.cfg addr) (lowByte v)).respondHandled true)
  else .refused .rowNotSelected

/-- WR.MASK (R90): v[7:0] replaces one mask byte, whatever the size. -/
def execWrMask (_n : Size) (addr v : Word) (s : State) : Host.Outcome State Fault Refusal :=
  if writeTarget s.cfg addr = .mask then
    .next ((s.setMaskByte (maskIndex s.cfg addr) (lowByte v)).respondHandled true)
  else .refused .rowNotSelected

/-- WR.TMR (R91): the n-byte value replaces the counter. -/
def execWrTmr (n : Size) (addr v : Word) (s : State) : Host.Outcome State Fault Refusal :=
  if writeTarget s.cfg addr = .tmr then
    .next ((s.setTimer (s.timer.set (timerIndex s.cfg addr)
      (trunc s.cfg.timerWidth (trunc (8 * n.bytes) v.toNat)))).respondHandled true)
  else .refused .rowNotSelected

/-- WR.UNH (R92): not handled, and the caller's plain store is performed; refused when its bytes run past the top
(R41). -/
def execWrUnh (n : Size) (addr v : Word) (s : State) : Host.Outcome State Fault Refusal :=
  if writeTarget s.cfg addr = .unh then
    if Fits addr.toNat n.bytes then
      .next ((s.setMem (memWrite s.cfg.byteOrder s.mem addr.toNat n.bytes v.toNat)).respondHandled false)
    else .refused .pastTop
  else .refused .rowNotSelected

end Sys2Proof.Machine
end

