-- ==== Sys2Proof/Machine/Control.lean ====
section
/-! DEFINITION. RESET (spec/45_control.md R160). -/

namespace Sys2Proof.Machine

open Sys2Proof

/-- RESET (R160): the block's own state is zero; M is not touched. -/
def execReset (s : State) : Host.Outcome State Fault Refusal :=
  .next ((((s.setPend (List.replicate s.cfg.ngroups 0x00)).setMask (List.replicate s.cfg.ngroups 0x00)).setTimer
    (Five.ofFn fun _ => 0)).setKbd 0x00).respondNone

end Sys2Proof.Machine
end

