-- ==== Sys2Proof/Machine/Keyboard.lean ====
section
/-! DEFINITION. KEY (spec/43_keyboard.md R140-R146). -/

namespace Sys2Proof.Machine

open Sys2Proof

/-- The key number a KEY takes, if it is neither filtered nor unmapped (R141, R146). -/
def takenKey (c : Config) (code : Word) : Option Nat :=
  if c.debugKey code then none else scanLookup c code

/-- A taken KEY: the slot is overwritten (R143), the SUPERIO line raised (R144), the CPU signalled (R145). -/
def takeKey (idx : Nat) (isKeyDown : Bool) (s : State) : State :=
  ((s.setKbd (eventByte isKeyDown idx)).setPending (s.cfg.groupIndex.get .superIO) s.cfg.kbdIrqBit).respondSignal
    (s.cfg.levelOfGroup.get .superIO)

/-- KEY (R140). -/
def execKey (code : Word) (isKeyDown : Bool) (s : State) : Host.Outcome State Fault Refusal :=
  match takenKey s.cfg code with
  | none => .next s.respondNone
  | some idx => .next (takeKey idx isKeyDown s)

end Sys2Proof.Machine
end

