-- ==== Sys2Proof/Machine/Timer.lean ====
section
/-! DEFINITION. ADV (spec/42_timers.md R130-R134). -/

namespace Sys2Proof.Machine

open Sys2Proof

/-- Counter i after a slice (R131, R132): its count added modulo 2^TIMER_WIDTH if it is enabled. -/
def advancedTimer (s : State) (cycles frames : Word) (i : Fin 5) : Nat :=
  if timerEnabled s i then
    trunc s.cfg.timerWidth (s.timer.get i + sliceCount (s.cfg.timers.get i).kind cycles frames)
  else s.timer.get i

/-- ADV (R130): both control words are sampled from M as it stands, and M is not written. -/
def execAdv (cycles frames : Word) (s : State) : Host.Outcome State Fault Refusal :=
  .next (s.setTimer (Five.ofFn (advancedTimer s cycles frames))).respondNone

end Sys2Proof.Machine
end

