-- ==== Sys2Proof/Machine/Dispatch.lean ====
section
/-! DEFINITION. One arm for each constructor of Instr, in the order of spec/opcode_table.json. -/

namespace Sys2Proof.Machine

open Sys2Proof

/-- The meaning of one instruction. -/
def exec (i : Instr) (s : State) : Host.Outcome State Fault Refusal :=
  match i with
  | .rdPend n addr => Sys2Proof.Machine.execRdPend n addr s
  | .rdMask n addr => Sys2Proof.Machine.execRdMask n addr s
  | .rdKbd n addr => Sys2Proof.Machine.execRdKbd n addr s
  | .rdTmr n addr => Sys2Proof.Machine.execRdTmr n addr s
  | .rdTmrna n addr => Sys2Proof.Machine.execRdTmrna n addr s
  | .rdRtc n addr => Sys2Proof.Machine.execRdRtc n addr s
  | .rdMem n addr => Sys2Proof.Machine.execRdMem n addr s
  | .wrPend n addr v => Sys2Proof.Machine.execWrPend n addr v s
  | .wrMask n addr v => Sys2Proof.Machine.execWrMask n addr v s
  | .wrTmr n addr v => Sys2Proof.Machine.execWrTmr n addr v s
  | .wrUnh n addr v => Sys2Proof.Machine.execWrUnh n addr v s
  | .adv cycles frames => Sys2Proof.Machine.execAdv cycles frames s
  | .key code isKeyDown => Sys2Proof.Machine.execKey code isKeyDown s
  | .ack level => Sys2Proof.Machine.execAck level s
  | .poll => Sys2Proof.Machine.execPoll s
  | .raise r b => Sys2Proof.Machine.execRaise r b s
  | .reset => Sys2Proof.Machine.execReset s

end Sys2Proof.Machine
end

