-- ==== Sys2Proof/Machine/Step.lean ====
section
/-! DEFINITION. One step: the block takes the next frame, decodes it under its configuration and performs it, each
command completely before the next (spec/20_memory.md R51). With no frame waiting it is idle and holds all its state
(spec/60_exceptions.md R183). -/

namespace Sys2Proof.Machine

open Sys2Proof

/-- One frame performed: decoded (R68), refused if illegal (R161), else run. -/
def runFrame (f : Frame) (s : State) : Host.Outcome State Fault Refusal :=
  match decode s.cfg f with
  | .ok i => exec i s
  | .error e => .refused (.illegalFrame e)

/-- One step of the machine. A configuration that breaks R8 is refused. -/
def step (s : State) : Host.Outcome State Fault Refusal :=
  if s.cfg.accepted then
    match s.takeFrame with
    | none => .next s
    | some (f, s') => runFrame f s'
  else .refused .configuration

/-- The state with the frame whose bits are w (bits from nbits up zero) as the next command. Nothing is fetched from
memory: the command arrives from outside (R27, log entry 9). -/
def State.withFetchWord (s : State) (nbits w : Nat) : State := s.offer (BitVec.ofNat 96 (w % 2 ^ nbits))

end Sys2Proof.Machine
end

