-- ==== Sys2Proof/Machine/Assembler.lean ====
section
/-! DEFINITION. The textual command form of spec/30_encoding.md R69 and the pseudo-instructions of R70. A line gives at
most one command; "`;` to end of line a comment". Log entry 17 says what the spec leaves open of the text. -/

namespace Sys2Proof.Machine

open Sys2Proof

/-- The pseudo-instructions of R70; r is a group index, i a counter, k a control word. -/
inductive Pseudo
  | rdPend (r : Nat)
  | clrPend (r : Nat) (bits : Word)
  | rdMask (r : Nat)
  | setMask (r : Nat) (bits : Word)
  | rdKbd
  | rdTmr (i : Nat)
  | wrTmr (i : Nat) (v : Word)
  | setCtrl (k : Fin 2) (v : Word)
  | rdRtc (f : RtcField)
  | keyDn (code : Word)
  | keyUp (code : Word)
deriving DecidableEq, Repr

/-- A number as the address operand of a frame. -/
def addrWord (a : Nat) : Word := BitVec.ofNat 32 a

/-- The address in the expansion of a pseudo-instruction (R70), as a number of any size; KEYDN and KEYUP have none. -/
def Pseudo.address (c : Config) : Pseudo → Option Nat
  | .rdPend r => some (c.icrPendBase + r)
  | .clrPend r _ => some (c.icrPendBase + r)
  | .rdMask r => some (c.icrMaskBase + r)
  | .setMask r _ => some (c.icrMaskBase + r)
  | .rdKbd => some c.kbdAddr
  | .rdTmr i => some (c.timerBase + 8 * i)
  | .wrTmr i _ => some (c.timerBase + 8 * i)
  | .setCtrl k _ => some (c.ctrlAddr k)
  | .rdRtc f => some (c.rtcOff.get f)
  | .keyDn _ => none
  | .keyUp _ => none

/-- The expansion of a pseudo-instruction under a configuration (R70). DESIGN CHOICE, safe, log entry 17: R70 leaves
open an address of 2^32 or more. This total function takes its low 32 bits; Pseudo.assemble, through which every line
of text goes, gives no command for it. -/
def Pseudo.expand (c : Config) (p : Pseudo) : Command :=
  let addr := addrWord ((p.address c).getD 0)
  match p with
  | .rdPend _ => .rd .b addr
  | .clrPend _ bits => .wr .b addr bits
  | .rdMask _ => .rd .b addr
  | .setMask _ bits => .wr .b addr bits
  | .rdKbd => .rd .b addr
  | .rdTmr _ => .rd .l addr
  | .wrTmr _ v => .wr .l addr v
  | .setCtrl _ v => .wr .l addr v
  | .rdRtc _ => .rd .b addr
  | .keyDn code => .key code true
  | .keyUp code => .key code false

/-- The command of a pseudo-instruction: its expansion, or nothing where the expanded address does not fit the 32-bit
operand. DESIGN CHOICE, safe, log entry 17: R70 does not say what such a line gives. -/
def Pseudo.assemble (c : Config) (p : Pseudo) : Option Command :=
  if ∀ a ∈ p.address c, a < Config.addrSpace then some (p.expand c) else none

/-- The words of a line: runs of characters between spaces and commas, up to the comment. -/
def lineTokens (word : List Char) : List Char → List (List Char)
  | [] => if word = [] then [] else [word.reverse]
  | ch :: rest =>
    if ch = ';' then (if word = [] then [] else [word.reverse])
    else if ch = ' ' ∨ ch = ',' then
      if word = [] then lineTokens [] rest else word.reverse :: lineTokens [] rest
    else lineTokens (ch :: word) rest

/-- The value of a digit in any base up to 16. -/
def digitValue (ch : Char) : Option Nat :=
  if '0' ≤ ch ∧ ch ≤ '9' then some (ch.toNat - '0'.toNat)
  else if 'a' ≤ ch ∧ ch ≤ 'f' then some (ch.toNat - 'a'.toNat + 10)
  else if 'A' ≤ ch ∧ ch ≤ 'F' then some (ch.toNat - 'A'.toNat + 10)
  else none

/-- Digits of a base after a value already read. -/
def parseDigits (base acc : Nat) : List Char → Option Nat
  | [] => some acc
  | ch :: rest =>
    match digitValue ch with
    | none => none
    | some d => if d < base then parseDigits base (base * acc + d) rest else none

/-- "Numbers are decimal or `0x`-prefixed hexadecimal" (R69). -/
def parseNumber : List Char → Option Nat
  | [] => none
  | ['0', 'x'] => none
  | '0' :: 'x' :: ds => parseDigits 16 0 ds
  | ds => parseDigits 10 0 ds

/-- The value a table gives a name. -/
def lookupName {α : Type} (table : List (String × α)) (word : List Char) : Option α :=
  (table.find? fun p => p.1.toList == word).map Prod.snd

/-- The RTC fields by name (R6). -/
def fieldNames : List (String × RtcField) :=
  [("SEC", .sec), ("MIN", .min), ("HOUR", .hour), ("DAY", .day), ("WDAY", .wday), ("MON", .mon), ("YEAR", .year)]

/-- The parameters that name an address (R69). -/
def addressNames (c : Config) : List (String × Nat) :=
  [("ICR_PEND_BASE", c.icrPendBase), ("ICR_MASK_BASE", c.icrMaskBase), ("KBD_ADDR", c.kbdAddr),
    ("TIMER_BASE", c.timerBase), ("RTC_BASE", c.rtcBase), ("CTRL_ADDR(0)", c.ctrlAddr0), ("CTRL_ADDR(1)", c.ctrlAddr1),
    ("RTC_OFF(SEC)", c.rtcOff.sec), ("RTC_OFF(MIN)", c.rtcOff.min), ("RTC_OFF(HOUR)", c.rtcOff.hour),
    ("RTC_OFF(DAY)", c.rtcOff.day), ("RTC_OFF(WDAY)", c.rtcOff.wday), ("RTC_OFF(MON)", c.rtcOff.mon),
    ("RTC_OFF(YEAR)", c.rtcOff.year)]

/-- The group names, which "may stand for `GROUP_INDEX` of that group wherever `r` appears" (R70). -/
def groupNames (c : Config) : List (String × Nat) :=
  [("DISPB", c.groupIndex.dispB), ("DISPA", c.groupIndex.dispA), ("SUPERIO", c.groupIndex.superIO),
    ("TIMER", c.groupIndex.timer)]

/-- A number, or a name of the table, or a name plus a number (R69); a single character `+` joins the two, and only one
is read. DESIGN CHOICE, safe, log entry 17: R69 gives a parameter name plus a constant for `addr` only. A number plus a
number (`0x100+2`) and a group name plus a number (`DISPA+1`) are taken too, as their sums. -/
def parseNamed (table : List (String × Nat)) (word : List Char) : Option Nat :=
  let name := word.takeWhile (· ≠ '+')
  let base := (lookupName table name).orElse fun _ => parseNumber name
  match word.drop name.length with
  | [] => base
  | _ :: rest => base.bind fun b => (parseNumber rest).map (b + ·)

/-- A value that fits a 32-bit operand. -/
def fitWord (v : Option Nat) : Option Word := v.bind fun n => if n < 2 ^ 32 then some (addrWord n) else none

/-- The key direction of KEY (R69). -/
def directions : List (String × Bool) := [("DOWN", true), ("UP", false)]

/-- RD by size suffix. -/
def rdNames : List (String × Size) := [("RD.B", .b), ("RD.W", .w), ("RD.L", .l)]

/-- WR by size suffix. -/
def wrNames : List (String × Size) := [("WR.B", .b), ("WR.W", .w), ("WR.L", .l)]

/-- An address operand. -/
def parseAddr (c : Config) (word : List Char) : Option Word := fitWord (parseNamed (addressNames c) word)

/-- A plain 32-bit operand. -/
def parseWord (word : List Char) : Option Word := fitWord (parseNumber word)

/-- A group index operand. -/
def parseGroup (c : Config) (word : List Char) : Option Nat := parseNamed (groupNames c) word

/-- Lines with no operand. -/
def assemble0 (name : List Char) : Option Command :=
  lookupName [("POLL", .poll), ("RESET", .reset)] name

/-- Pseudo-instructions with no operand. -/
def pseudo0 (name : List Char) : Option Pseudo := lookupName [("RDKBD", .rdKbd)] name

/-- Lines with one operand. -/
def assemble1 (c : Config) (name x : List Char) : Option Command :=
  match lookupName rdNames name with
  | some n => (parseAddr c x).map (.rd n)
  | none => if name = "ACK".toList then (parseWord x).map .ack else none

/-- Pseudo-instructions with one operand. -/
def pseudo1 (c : Config) (name x : List Char) : Option Pseudo :=
  if name = "RDPEND".toList then (parseGroup c x).map .rdPend
  else if name = "RDMASK".toList then (parseGroup c x).map .rdMask
  else if name = "RDTMR".toList then (parseNumber x).map .rdTmr
  else if name = "RDRTC".toList then (lookupName fieldNames x).map .rdRtc
  else if name = "KEYDN".toList then (parseWord x).map .keyDn
  else if name = "KEYUP".toList then (parseWord x).map .keyUp
  else none

/-- Lines with two operands. DESIGN CHOICE, safe, log entry 17: R69 leaves open what the text of a RAISE whose bit is 8
or more gives; it gives no command, since a command holds the three bits of the line (R64). The value of a WR that is too
large for its size is assembled, and its frame is refused (vector W13). A group name stands for the group index of RAISE
(R70). -/
def assemble2 (c : Config) (name x y : List Char) : Option Command :=
  match lookupName wrNames name with
  | some n => (parseAddr c x).bind fun a => (parseWord y).map (.wr n a)
  | none =>
    if name = "ADV".toList then (parseWord x).bind fun k => (parseWord y).map (.adv k)
    else if name = "KEY".toList then (parseWord x).bind fun k => (lookupName directions y).map (.key k)
    else if name = "RAISE".toList then
      (fitWord (parseGroup c x)).bind fun r =>
        (parseNumber y).bind fun b => if b < 8 then some (.raise r (BitVec.ofNat 3 b)) else none
    else none

/-- Pseudo-instructions with two operands. DESIGN CHOICE, safe, log entry 17: SETCTRL of a control word other than 0 and
1, which has no CTRL_ADDR (R6), gives no command. -/
def pseudo2 (c : Config) (name x y : List Char) : Option Pseudo :=
  if name = "CLRPEND".toList then (parseGroup c x).bind fun r => (parseWord y).map (.clrPend r)
  else if name = "SETMASK".toList then (parseGroup c x).bind fun r => (parseWord y).map (.setMask r)
  else if name = "WRTMR".toList then (parseNumber x).bind fun i => (parseWord y).map (.wrTmr i)
  else if name = "SETCTRL".toList then
    (parseNumber x).bind fun k => if k < 2 then (parseWord y).map (.setCtrl (Fin.ofNat 2 k)) else none
  else none

/-- The command of a line of text (R69, R70), or nothing where the line is none. -/
def assembleLine (c : Config) (line : String) : Option Command :=
  match lineTokens [] line.toList with
  | [name] => (assemble0 name).orElse fun _ => (pseudo0 name).bind (Pseudo.assemble c)
  | [name, x] => (assemble1 c name x).orElse fun _ => (pseudo1 c name x).bind (Pseudo.assemble c)
  | [name, x, y] => (assemble2 c name x y).orElse fun _ => (pseudo2 c name x y).bind (Pseudo.assemble c)
  | _ => none

end Sys2Proof.Machine
end

