-- ==== Sys2Proof/Safety.lean ====
section
/-! DEFINITION. What the statements count as a good state and a safe run: the invariant of State, and the refusal mark
of a run of frames (spec/45_control.md R161). -/

namespace Sys2Proof.Machine

open Sys2Proof

/-- The invariant of the state: an accepted configuration (R8), banks of NGROUPS bytes (R20), counters below
2^TIMER_WIDTH (R24), memory in its canonical form. -/
def State.wf (s : State) : Prop :=
  s.cfg.accepted = true ∧ s.pend.length = s.cfg.ngroups ∧ s.mask.length = s.cfg.ngroups ∧
    (∀ i, s.timer.get i < 2 ^ s.cfg.timerWidth) ∧ s.mem.wf = true

/-- The plain memory access of a command: start address and size, for the rows that make one (R41). -/
def memoryAccess : Instr → Option (Word × Size)
  | .rdTmrna n addr => some (addr, n)
  | .rdRtc n addr => some (addr, n)
  | .rdMem n addr => some (addr, n)
  | .wrUnh n addr _ => some (addr, n)
  | .rdPend _ _ => none
  | .rdMask _ _ => none
  | .rdKbd _ _ => none
  | .rdTmr _ _ => none
  | .wrPend _ _ _ => none
  | .wrMask _ _ _ => none
  | .wrTmr _ _ _ => none
  | .adv _ _ => none
  | .key _ _ => none
  | .ack _ => none
  | .poll => none
  | .raise _ _ => none
  | .reset => none

/-- The memory access of a command, if it makes one, runs past the top of memory (R41). -/
def RunsPastTop (i : Instr) : Prop := ∃ addr n, memoryAccess i = some (addr, n) ∧ ¬ Fits addr.toNat n.bytes

/-- Group g has an active line: one pending and not masked (R111). -/
def GroupActive (s : State) (g : Group) : Prop :=
  bankByte s.pend (s.cfg.groupIndex.get g) &&& ~~~bankByte s.mask (s.cfg.groupIndex.get g) ≠ 0

/-- Instructions performed in order (R51). -/
def execAll : List Instr → State → Host.Outcome State Fault Refusal
  | [], s => .next s
  | i :: rest, s =>
    match exec i s with
    | .next t => execAll rest t
    | .fault x => .fault x
    | .refused x => .refused x

/-- What one instruction adds to counter i: its count if it is an ADV and the counter is enabled (R131). -/
def gainOf (i : Fin 5) (k : Instr) (s : State) : Nat :=
  match k with
  | .adv cycles frames => if timerEnabled s i then sliceCount (s.cfg.timers.get i).kind cycles frames else 0
  | _ => 0

/-- The sum of what instructions performed in order add to counter i (R132). -/
def gained (i : Fin 5) : List Instr → State → Nat
  | [], _ => 0
  | k :: rest, s =>
    gainOf i k s +
      match exec k s with
      | .next t => gained i rest t
      | .fault _ => 0
      | .refused _ => 0

/-- An instruction that writes counter i other than by ADV: WR.TMR at its address, or RESET (R24). -/
def WritesCounter (c : Config) (i : Fin 5) (k : Instr) : Prop :=
  k = .reset ∨ ∃ n addr v, k = .wrTmr n addr v ∧ timerIndex c addr = i

/-- A run of the block: its state, and the refusal mark "kept for the whole run" (R161, log entry 11). -/
structure Run where
  state : State
  mark  : Option Refusal
deriving DecidableEq, Repr

/-- A run begins in the post-RESET state with no mark (R190). -/
def Run.start (c : Config) : Run := { state := State.resetWith c, mark := none }

/-- One frame given to a run: a refused frame sets the mark, unless one is set, and changes no state (R161). -/
def Run.feed (r : Run) (f : Frame) : Run :=
  match step (r.state.offer f) with
  | .next s => { r with state := s }
  | .fault _ => r
  | .refused x => { r with mark := r.mark.or (some x) }

/-- Frames given to a run in order (R51). -/
def Run.feedAll (r : Run) (fs : List Frame) : Run := fs.foldl Run.feed r

/-- A safe run: no frame of it was refused. -/
def Run.safe (r : Run) : Prop := r.mark = none

end Sys2Proof.Machine
end

