-- ==== Sys2Proof/Certificates/Slice0/Obligations.lean ====
section
/-! DEFINITION. The statements about the block, from the numbered rules of spec/. A statement over a state s holds for
every configuration s carries, unless it names Config.refmap. -/

open Sys2Proof Sys2Proof.Machine

/- Frames and their encodings. -/

/-- R60 to R68: the decoder gives back every well-formed instruction from its frame. -/
def Obligations.DecodeOfEncode : Prop :=
  ∀ (c : Config) (i : Instr), c.accepted = true → i.wellFormed c = true → decode c (encode i) = .ok i

/-- R60 to R64: a frame that decodes is the encoding of what it decodes to, so no bit of it is dropped. -/
def Obligations.EncodeOfDecode : Prop :=
  ∀ (c : Config) (f : Frame) (i : Instr), decode c f = .ok i → encode i = f

/-- R68, R80, R88: what a frame decodes to meets its row's address condition and its operand ranges. -/
def Obligations.DecodedIsWellFormed : Prop :=
  ∀ (c : Config) (f : Frame) (i : Instr), decode c f = .ok i → i.wellFormed c = true

/-- R66: exactly these frames are illegal. -/
def Obligations.IllegalFramesExactly : Prop :=
  ∀ (c : Config) (f : Frame), (∃ e, decode c f = .error e) ↔
    ((f.op = 0x00#8 ∨ 0x09#8 ≤ f.op) ∨
      ((f.op = 0x01#8 ∨ f.op = 0x02#8) ∧ f.sz = 3#2) ∨
      (f.op ≠ 0x01#8 ∧ f.op ≠ 0x02#8 ∧ f.sz ≠ 0#2) ∨
      f.rsv ≠ 0#22 ∨
      (f.op = 0x01#8 ∧ f.d ≠ 0#32) ∨
      (f.op = 0x02#8 ∧ ((f.sz = 0#2 ∧ 2 ^ 8 ≤ f.d.toNat) ∨ (f.sz = 1#2 ∧ 2 ^ 16 ≤ f.d.toNat))) ∨
      (f.op = 0x04#8 ∧ 2 ≤ f.d.toNat) ∨
      (f.op = 0x05#8 ∧ f.d ≠ 0#32) ∨
      ((f.op = 0x06#8 ∨ f.op = 0x08#8) ∧ (f.a ≠ 0#32 ∨ f.d ≠ 0#32)) ∨
      (f.op = 0x07#8 ∧ 8 ≤ f.d.toNat) ∨
      (f.op = 0x07#8 ∧ c.ngroups ≤ f.a.toNat))

/-- R71: the worked encodings under REFMAP, from text to frame. -/
def Obligations.WorkedEncodings : Prop :=
  (assembleLine Config.refmap "RD.B 0x100").map Command.frame = some 0x010000000000010000000000 ∧
  (assembleLine Config.refmap "WR.B 0x100, 0x05").map Command.frame = some 0x020000000000010000000005 ∧
  (assembleLine Config.refmap "WR.L 0x404, 0x00010000").map Command.frame = some 0x028000000000040400010000 ∧
  (assembleLine Config.refmap "RD.W 0x504").map Command.frame = some 0x014000000000050400000000 ∧
  (assembleLine Config.refmap "ADV 100, 2").map Command.frame = some 0x030000000000006400000002 ∧
  (assembleLine Config.refmap "KEY 41, DOWN").map Command.frame = some 0x040000000000002900000001 ∧
  (assembleLine Config.refmap "KEY 41, UP").map Command.frame = some 0x040000000000002900000000 ∧
  (assembleLine Config.refmap "ACK 3").map Command.frame = some 0x050000000000000300000000 ∧
  (assembleLine Config.refmap "POLL").map Command.frame = some 0x060000000000000000000000 ∧
  (assembleLine Config.refmap "RAISE 1, 3").map Command.frame = some 0x070000000000000100000003 ∧
  (assembleLine Config.refmap "RESET").map Command.frame = some 0x080000000000000000000000

/-- R60, R61, R71: a few words written out from the encoding decode to the instructions they stand for (REFMAP). -/
def Obligations.FramesDecodeAsWritten : Prop :=
  decode Config.refmap 0x010000000000010000000000 = .ok (.rdPend .b 0x100) ∧
  decode Config.refmap 0x014000000000032000000000 = .ok (.rdTmr .w 0x320) ∧
  decode Config.refmap 0x028000000000040400010000 = .ok (.wrUnh .l 0x404 0x00010000) ∧
  decode Config.refmap 0x030000000000006400000002 = .ok (.adv 100 2) ∧
  decode Config.refmap 0x040000000000002900000001 = .ok (.key 41 true) ∧
  decode Config.refmap 0x070000000000000100000003 = .ok (.raise 1 3)

/-- R70, R80, R88: the frames of the eleven pseudo-instructions decode to the rows their names say, under any accepted
configuration: WRTMR of a counter that is not writable to WR.UNH, RDRTC of a field that RTC_OFF places outside the RTC
window to RD.MEM. That every RTC_OFF is an address of the space is the model's check (log entry 4). -/
def Obligations.PseudoInstructionsSelectRows : Prop :=
  ∀ (c : Config), c.accepted = true →
    (∀ r < c.ngroups,
      decode c (Pseudo.expand c (.rdPend r)).frame = .ok (.rdPend .b (BitVec.ofNat 32 (c.icrPendBase + r))) ∧
      decode c (Pseudo.expand c (.rdMask r)).frame = .ok (.rdMask .b (BitVec.ofNat 32 (c.icrMaskBase + r))) ∧
      ∀ bits : Word, bits.toNat < 2 ^ 8 →
        decode c (Pseudo.expand c (.clrPend r bits)).frame
          = .ok (.wrPend .b (BitVec.ofNat 32 (c.icrPendBase + r)) bits) ∧
        decode c (Pseudo.expand c (.setMask r bits)).frame
          = .ok (.wrMask .b (BitVec.ofNat 32 (c.icrMaskBase + r)) bits)) ∧
    decode c (Pseudo.expand c .rdKbd).frame = .ok (.rdKbd .b (BitVec.ofNat 32 c.kbdAddr)) ∧
    (∀ i : Fin 5,
      decode c (Pseudo.expand c (.rdTmr i.val)).frame = .ok (.rdTmr .l (BitVec.ofNat 32 (c.timerBase + 8 * i.val))) ∧
      ∀ v : Word, decode c (Pseudo.expand c (.wrTmr i.val v)).frame
        = .ok (if (c.timers.get i).writable = true then .wrTmr .l (BitVec.ofNat 32 (c.timerBase + 8 * i.val)) v
          else .wrUnh .l (BitVec.ofNat 32 (c.timerBase + 8 * i.val)) v)) ∧
    (∀ f : RtcField, decode c (Pseudo.expand c (.rdRtc f)).frame
      = .ok (if c.rtcBase ≤ c.rtcOff.get f ∧ c.rtcOff.get f < c.rtcBase + c.rtcSize then
          .rdRtc .b (BitVec.ofNat 32 (c.rtcOff.get f))
        else .rdMem .b (BitVec.ofNat 32 (c.rtcOff.get f)))) ∧
    (∀ (k : Fin 2) (v : Word),
      decode c (Pseudo.expand c (.setCtrl k v)).frame = .ok (.wrUnh .l (BitVec.ofNat 32 (c.ctrlAddr k)) v)) ∧
    ∀ code : Word,
      decode c (Pseudo.expand c (.keyDn code)).frame = .ok (.key code true) ∧
      decode c (Pseudo.expand c (.keyUp code)).frame = .ok (.key code false)

/- The step. -/

/-- R5, R68: when the next frame decodes, the step is exec of its instruction, the frame taken from the queue. -/
def Obligations.StepRunsDecoded : Prop :=
  ∀ (s : State) (f : Frame) (rest : List Frame) (i : Instr), s.cfg.accepted = true → s.queue = f :: rest →
    decode s.cfg f = .ok i → step s = exec i { s with queue := rest }

/-- R183: "It is idle between commands and holds all state indefinitely." -/
def Obligations.IdleHoldsAllState : Prop :=
  ∀ (s : State), s.cfg.accepted = true → s.queue = [] → step s = .next s

/-- R8: a configuration that is not accepted is refused. The checks of log entries 4 and 5 are the model's. -/
def Obligations.BadConfigurationRefused : Prop :=
  ∀ (s : State), s.cfg.accepted = false → step s = .refused .configuration

/-- R8, R48: under an accepted configuration no address lies in two special windows, and no byte of a control word in
any. -/
def Obligations.SpecialWindowsDisjoint : Prop :=
  ∀ (c : Config), c.accepted = true →
    (∀ (i j : Nat) (hi : i < c.windows.length) (hj : j < c.windows.length) (a : Nat),
      (c.windows[i]).Has a → (c.windows[j]).Has a → i = j) ∧
    ∀ (k : Fin 2) (j : Nat), j < 4 → ∀ w ∈ c.windows, ¬ w.Has (c.ctrlAddr k + j)

/-- R162: a legal frame has exactly one outcome, a next state in which it is no longer waiting. -/
def Obligations.LegalFrameCompletes : Prop :=
  ∀ (s : State) (f : Frame) (rest : List Frame) (i : Instr), s.cfg.accepted = true → s.queue = f :: rest →
    decode s.cfg f = .ok i → ¬ RunsPastTop i → ∃ t, step s = .next t ∧ t.queue = rest

/-- R161 with log entry 12: these are the only refusals of a step, and each is made when its condition holds. -/
def Obligations.StepRefusesExactly : Prop :=
  ∀ (s : State) (x : Refusal), step s = .refused x ↔
    (s.cfg.accepted = false ∧ x = .configuration) ∨
    (s.cfg.accepted = true ∧ ∃ f rest, s.queue = f :: rest ∧
      ((∃ e, decode s.cfg f = .error e ∧ x = .illegalFrame e) ∨
        ∃ i, decode s.cfg f = .ok i ∧ RunsPastTop i ∧ x = .pastTop))

/-- R170, R94, R162: no instruction traps, faults or aborts. In every state of an accepted configuration a well-formed
instruction answers a next state unless its memory access runs past the top, and then the answer is that refusal. Which
rows make an access is log entry 12. -/
def Obligations.InstructionsNeverTrap : Prop :=
  ∀ (s : State) (i : Instr), s.cfg.accepted = true → i.wellFormed s.cfg = true →
    (¬ RunsPastTop i → ∃ t, exec i s = .next t) ∧ (RunsPastTop i → exec i s = .refused .pastTop)

/-- R161: a refused frame changes no state of a run and sets its mark, and a mark once set stays. The mark is the
model's reading (log entry 11). -/
def Obligations.RefusalMarkIsKept : Prop :=
  ∀ (r : Run) (f : Frame),
    (∀ x, step (r.state.offer f) = .refused x → (r.feed f).state = r.state ∧ (r.feed f).mark ≠ none) ∧
    ∀ (fs : List Frame) (x : Refusal), r.mark = some x → (r.feedAll fs).mark = some x

/- The invariant. -/

/-- R20, R24, R31: a step keeps the invariant of the state. -/
def Obligations.StepKeepsInvariant : Prop :=
  ∀ (s t : State), s.wf → step s = .next t → t.wf

/-- R190: the post-RESET state of every accepted configuration meets the invariant, and State.reset is one. -/
def Obligations.ResetMeetsInvariant : Prop :=
  (∀ c : Config, c.accepted = true → (State.resetWith c).wf) ∧ State.reset.wf

/-- R36, R37: the state after reset: pend, mask, timer and kbd zero, no level reported, every line enabled. -/
def Obligations.ResetValues : Prop :=
  ∀ (c : Config),
    (∀ r, bankByte (State.resetWith c).pend r = 0x00 ∧ bankByte (State.resetWith c).mask r = 0x00) ∧
    (State.resetWith c).pend.length = c.ngroups ∧ (State.resetWith c).mask.length = c.ngroups ∧
    (∀ i, (State.resetWith c).timer.get i = 0) ∧ (State.resetWith c).kbd = 0x00 ∧
    irqLevel (State.resetWith c) = c.noneLevel

/- Reads. -/

/-- R81: RD.PEND returns the one pending byte of its address, whatever the size, and changes no state. -/
def Obligations.RdPendReturnsByte : Prop :=
  ∀ (s : State) (n : Size) (addr : Word) (r : Nat), r < s.cfg.ngroups → addr.toNat = s.cfg.icrPendBase + r →
    exec (.rdPend n addr) s
      = .next { s with resp := { Response.default s.cfg with rdata := (bankByte s.pend r).setWidth 32 } }

/-- R82: RD.MASK returns the one mask byte of its address, whatever the size, and changes no state. -/
def Obligations.RdMaskReturnsByte : Prop :=
  ∀ (s : State) (n : Size) (addr : Word) (r : Nat), s.cfg.accepted = true → r < s.cfg.ngroups →
    addr.toNat = s.cfg.icrMaskBase + r →
    exec (.rdMask n addr) s
      = .next { s with resp := { Response.default s.cfg with rdata := (bankByte s.mask r).setWidth 32 } }

/-- R83: RD.KBD returns the slot and clears it; the pending byte of the keyboard line is not touched. -/
def Obligations.RdKbdReadsAndClears : Prop :=
  ∀ (s : State) (n : Size) (addr : Word), s.cfg.accepted = true → addr.toNat = s.cfg.kbdAddr →
    exec (.rdKbd n addr) s
      = .next { s with kbd := 0x00, resp := { Response.default s.cfg with rdata := s.kbd.setWidth 32 } }

/-- R84: RD.TMR returns the low 8n bits of counter i, writable or not, and changes no state. -/
def Obligations.RdTmrReturnsCounter : Prop :=
  ∀ (s : State) (n : Size) (addr : Word) (i : Fin 5), s.cfg.accepted = true →
    addr.toNat = s.cfg.timerBase + 8 * i.val →
    exec (.rdTmr n addr) s
      = .next { s with resp := { Response.default s.cfg with
          rdata := BitVec.ofNat 32 (s.timer.get i % 2 ^ (8 * n.bytes)) } }

/-- R85, R87: RD.TMRNA and RD.MEM return the n-byte value of M at their address and change no state. -/
def Obligations.PlainReadsReturnMemory : Prop :=
  ∀ (s : State) (n : Size) (addr : Word) (i : Instr), (i = .rdTmrna n addr ∨ i = .rdMem n addr) →
    s.cfg.accepted = true → i.wellFormed s.cfg = true → addr.toNat + n.bytes ≤ 2 ^ 32 →
    exec i s
      = .next { s with resp := { Response.default s.cfg with
          rdata := BitVec.ofNat 32 (memRead s.cfg.byteOrder s.mem addr.toNat n.bytes) } }

/-- R41: MemRead assembles the n bytes from the address up, in the byte order. -/
def Obligations.MemReadAssemblesBytes : Prop :=
  ∀ (m : Memory) (a n : Nat),
    memRead .big m a n = ∑ k ∈ Finset.range n, (readByte m (a + k)).toNat * 2 ^ (8 * (n - 1 - k)) ∧
    memRead .little m a n = ∑ k ∈ Finset.range n, (readByte m (a + k)).toNat * 2 ^ (8 * k)

/-- R41, R161 with log entry 12: an access whose bytes run past the top is refused, and its row does nothing. -/
def Obligations.PastTopIsRefused : Prop :=
  ∀ (s : State) (i : Instr), s.cfg.accepted = true → i.wellFormed s.cfg = true → RunsPastTop i →
    exec i s = .refused .pastTop

/-- R150, R151: RD.RTC draws one reading, writes its seven BCD bytes to M in order, changes no other byte and no block
state, and returns the n bytes at its address after the writes. The reading is an input (log entry 7): the first one
supplied, where one is. HourEnc(h) is h in the 24-hour mode (R153); in the 12-hour mode it is free (log entry 6). -/
def Obligations.RdRtcSnapshots : Prop :=
  ∀ (s : State) (n : Size) (addr : Word), s.cfg.accepted = true → s.mem.wf = true →
    s.cfg.rtcBase ≤ addr.toNat → addr.toNat < s.cfg.rtcBase + s.cfg.rtcSize → addr.toNat + n.bytes ≤ 2 ^ 32 →
    ∃ t, exec (.rdRtc n addr) s = .next t ∧
      t = { s with
        mem := t.mem, clock := s.clock.tail, draws := s.draws + 1,
        resp := { Response.default s.cfg with
          rdata := BitVec.ofNat 32 (memRead s.cfg.byteOrder t.mem addr.toNat n.bytes) } } ∧
      (∀ w rest, s.clock = w :: rest → s.nextReading = w) ∧
      (s.cfg.hourMode = .h24 → hourEnc s.cfg s.nextReading.hour = s.nextReading.hour.val) ∧
      ∀ a, readByte t.mem a =
        if a = s.cfg.rtcOff.year then bcd (s.nextReading.year % 100)
        else if a = s.cfg.rtcOff.mon then bcd (s.cfg.monEnc.getD s.nextReading.mon.position 0)
        else if a = s.cfg.rtcOff.wday then bcd (s.cfg.wdayEnc.getD s.nextReading.wday.position 0)
        else if a = s.cfg.rtcOff.day then bcd s.nextReading.mday
        else if a = s.cfg.rtcOff.hour then bcd (hourEnc s.cfg s.nextReading.hour)
        else if a = s.cfg.rtcOff.min then bcd s.nextReading.min.val
        else if a = s.cfg.rtcOff.sec then bcd s.nextReading.sec.val
        else readByte s.mem a

/-- R152: BCD(v) holds v div 10 in its high four bits and v mod 10 in its low four, each 0 to 9. -/
def Obligations.BcdDigits : Prop :=
  ∀ v ≤ 99, (bcd v).toNat / 16 = v / 10 ∧ (bcd v).toNat % 16 = v % 10 ∧ v / 10 ≤ 9 ∧ v % 10 ≤ 9

/-- R150, R152, R153: after RD.RTC each of the seven RTC bytes of M holds two BCD digits, in every hour mode and
whatever the reading. In the 12-hour mode this rests on the bound 99 of the model's free value (log entry 6, DESIGN
CHOICE), for weekday and month on the model's check that their codes are at most 99 (log entry 4, DEDUCED). -/
def Obligations.RtcBytesAreBcd : Prop :=
  ∀ (s t : State) (n : Size) (addr : Word) (f : RtcField), s.cfg.accepted = true → s.mem.wf = true →
    exec (.rdRtc n addr) s = .next t →
    (readByte t.mem (s.cfg.rtcOff.get f)).toNat / 16 ≤ 9 ∧ (readByte t.mem (s.cfg.rtcOff.get f)).toNat % 16 ≤ 9

/- Writes. -/

/-- R89: WR.PEND clears the bits of v[7:0] in the one pending byte of its address, whatever the size. -/
def Obligations.WrPendClearsBits : Prop :=
  ∀ (s : State) (n : Size) (addr v : Word) (r : Nat), r < s.cfg.ngroups → addr.toNat = s.cfg.icrPendBase + r →
    exec (.wrPend n addr v) s
      = .next { s with
          pend := s.pend.set r (bankByte s.pend r &&& ~~~(v.setWidth 8)),
          resp := { Response.default s.cfg with handled := true } }

/-- R90: WR.MASK replaces the one mask byte of its address by v[7:0], whatever the size. -/
def Obligations.WrMaskReplacesByte : Prop :=
  ∀ (s : State) (n : Size) (addr v : Word) (r : Nat), s.cfg.accepted = true → r < s.cfg.ngroups →
    addr.toNat = s.cfg.icrMaskBase + r →
    exec (.wrMask n addr v) s
      = .next { s with
          mask := s.mask.set r (v.setWidth 8), resp := { Response.default s.cfg with handled := true } }

/-- R91: WR.TMR replaces counter i by the value, modulo 2^TIMER_WIDTH; the other counters stay. -/
def Obligations.WrTmrReplacesCounter : Prop :=
  ∀ (s : State) (n : Size) (addr v : Word) (i : Fin 5), s.cfg.accepted = true →
    addr.toNat = s.cfg.timerBase + 8 * i.val → (s.cfg.timers.get i).writable = true → v.toNat < 2 ^ (8 * n.bytes) →
    ∃ t, exec (.wrTmr n addr v) s = .next t ∧
      t = { s with timer := t.timer, resp := { Response.default s.cfg with handled := true } } ∧
      ∀ j, t.timer.get j = if j = i then v.toNat % 2 ^ s.cfg.timerWidth else s.timer.get j

/-- R92: WR.UNH stores the n bytes of v at its address in the byte order, and changes no other byte and no block
state. -/
def Obligations.WrUnhStoresToMemory : Prop :=
  ∀ (s : State) (n : Size) (addr v : Word), s.cfg.accepted = true → s.mem.wf = true →
    (Instr.wrUnh n addr v).wellFormed s.cfg = true → addr.toNat + n.bytes ≤ 2 ^ 32 →
    ∃ t, exec (.wrUnh n addr v) s = .next t ∧
      t = { s with mem := t.mem, resp := { Response.default s.cfg with handled := false } } ∧
      (∀ k < n.bytes, (readByte t.mem (addr.toNat + k)).toNat =
        match s.cfg.byteOrder with
        | .big => v.toNat / 2 ^ (8 * (n.bytes - 1 - k)) % 256
        | .little => v.toNat / 2 ^ (8 * k) % 256) ∧
      ∀ a, a < addr.toNat ∨ addr.toNat + n.bytes ≤ a → readByte t.mem a = readByte s.mem a

/-- R41: MemRead after MemWrite at the same place gives the n bytes of the value written. -/
def Obligations.MemReadAfterMemWrite : Prop :=
  ∀ (o : ByteOrder) (m : Memory) (a n v : Nat), m.wf = true → a + n ≤ 2 ^ 32 →
    memRead o (memWrite o m a n v) a n = v % 2 ^ (8 * n) ∧ (memWrite o m a n v).wf = true

/-- R93: a WR that completes reports handled exactly when it is WR.PEND, WR.MASK or WR.TMR. -/
def Obligations.HandledExactly : Prop :=
  ∀ (s t : State) (i : Instr) (n : Size) (addr v : Word),
    i = .wrPend n addr v ∨ i = .wrMask n addr v ∨ i = .wrTmr n addr v ∨ i = .wrUnh n addr v →
    exec i s = .next t →
    (t.resp.handled = true ↔ i = .wrPend n addr v ∨ i = .wrMask n addr v ∨ i = .wrTmr n addr v)

/-- R46: a write performed again changes nothing more: pending, mask, timer and plain stores alike. -/
def Obligations.WritesAreIdempotent : Prop :=
  ∀ (s t : State) (i : Instr) (n : Size) (addr v : Word), s.mem.wf = true →
    i = .wrPend n addr v ∨ i = .wrMask n addr v ∨ i = .wrTmr n addr v ∨ i = .wrUnh n addr v →
    exec i s = .next t → exec i t = .next t

/- Timers. -/

/-- R130, R131, R133: ADV adds its count to each enabled counter modulo 2^TIMER_WIDTH, leaves the others, and changes
nothing else. -/
def Obligations.AdvAddsToEnabled : Prop :=
  ∀ (s : State) (cycles frames : Word), ∃ t, exec (.adv cycles frames) s = .next t ∧
    t = { s with timer := t.timer, resp := Response.default s.cfg } ∧
    ∀ i : Fin 5, t.timer.get i =
      if (memRead s.cfg.byteOrder s.mem (s.cfg.ctrlAddr (s.cfg.timers.get i).enWord) 4).testBit
          (s.cfg.timers.get i).enBit then
        (s.timer.get i + match (s.cfg.timers.get i).kind with
          | .cycle => cycles.toNat
          | .frame => frames.toNat) % 2 ^ s.cfg.timerWidth
      else s.timer.get i

/-- R132: over any commands that do not write it, a counter gains exactly the counts of the ADVs at which it was
enabled, modulo 2^TIMER_WIDTH; one never enabled is unchanged. -/
def Obligations.CounterAccumulates : Prop :=
  ∀ (s t : State) (is : List Instr) (i : Fin 5), s.timer.get i < 2 ^ s.cfg.timerWidth → execAll is s = .next t →
    (∀ k ∈ is, ¬ WritesCounter s.cfg i k) →
    t.timer.get i = (s.timer.get i + gained i is s) % 2 ^ s.cfg.timerWidth

/-- R29, R54: a store to a control word decides the enables of the very next ADV. -/
def Obligations.CtrlStoreDecidesNextAdv : Prop :=
  ∀ (s : State) (k : Fin 2) (v cycles frames : Word), s.cfg.accepted = true → s.mem.wf = true →
    ∃ t u, exec (.wrUnh .l (BitVec.ofNat 32 (s.cfg.ctrlAddr k)) v) s = .next t ∧
      exec (.adv cycles frames) t = .next u ∧
      ∀ i : Fin 5, (s.cfg.timers.get i).enWord = k →
        u.timer.get i =
          if v.getLsbD (s.cfg.timers.get i).enBit then
            (s.timer.get i + sliceCount (s.cfg.timers.get i).kind cycles frames) % 2 ^ s.cfg.timerWidth
          else s.timer.get i

/-- R130, R131: an ADV advances both counters on bit 16, each by the count of its kind, or neither, whatever M holds.
That no third counter has bit 16 of the other control word is the model's reading of R8 (log entry 5, DEDUCED). -/
def Obligations.SharedEnableAdvancesTogether : Prop :=
  ∀ (s : State) (i j : Fin 5) (cycles frames : Word), s.cfg.accepted = true → (s.cfg.timers.get i).enBit = 16 →
    (s.cfg.timers.get j).enBit = 16 →
    ∃ t, exec (.adv cycles frames) s = .next t ∧
      ((∀ k : Fin 5, k = i ∨ k = j → t.timer.get k =
          (s.timer.get k + sliceCount (s.cfg.timers.get k).kind cycles frames) % 2 ^ s.cfg.timerWidth) ∨
        (t.timer.get i = s.timer.get i ∧ t.timer.get j = s.timer.get j))

/- The keyboard. -/

/-- R141 to R145: a KEY whose code is not filtered and first stands at index idx of the table overwrites the slot with
the event byte, sets the keyboard line of the SUPERIO group and signals its level, masked or not. -/
def Obligations.KeyTaken : Prop :=
  ∀ (s : State) (code : Word) (down : Bool) (idx : Nat), s.cfg.accepted = true → s.cfg.debugKey code = false →
    s.cfg.scanTable[idx]? = some (some code) → (∀ j : Nat, j < idx → s.cfg.scanTable[j]? ≠ some (some code)) →
    exec (.key code down) s
      = .next { s with
          kbd := BitVec.ofNat 8 ((if down then 0 else 128) + idx),
          pend := s.pend.set s.cfg.groupIndex.superIO
            (bankByte s.pend s.cfg.groupIndex.superIO ||| BitVec.twoPow 8 s.cfg.kbdIrqBit),
          resp := { Response.default s.cfg with signals := [s.cfg.levelOfGroup.superIO] } } ∧
    idx < 128

/-- R146: a KEY whose code is filtered or equals no entry of the table changes nothing and emits nothing. -/
def Obligations.KeyIgnored : Prop :=
  ∀ (s : State) (code : Word) (down : Bool),
    (s.cfg.debugKey code = true ∨ ∀ j : Nat, s.cfg.scanTable[j]? ≠ some (some code)) →
    exec (.key code down) s = .next { s with resp := Response.default s.cfg }

/-- R143: of two KEYs taken in a row a read sees only the second, and then nothing. -/
def Obligations.SecondKeyHidesFirst : Prop :=
  ∀ (s t u : State) (c1 c2 : Word) (d1 d2 : Bool) (n m : Size) (addr : Word), s.cfg.accepted = true →
    addr.toNat = s.cfg.kbdAddr → exec (.key c1 d1) s = .next t → exec (.key c2 d2) t = .next u →
    u.resp.signals ≠ [] →
    ∃ idx v w, scanLookup s.cfg c2 = some idx ∧ exec (.rdKbd n addr) u = .next v ∧
      v.resp.rdata = (eventByte d2 idx).setWidth 32 ∧ exec (.rdKbd m addr) v = .next w ∧ w.resp.rdata = 0

/- The arbiter. -/

/-- R110 to R112, R33: POLL answers irq_level and changes no state; irq_level is the level of the highest-ranked active
group, or NONE_LEVEL. -/
def Obligations.PollReportsHighest : Prop :=
  ∀ (s : State), exec .poll s = .next { s with resp := { Response.default s.cfg with level := irqLevel s } } ∧
    (GroupActive s .dispB → irqLevel s = s.cfg.levelOfGroup.dispB) ∧
    (¬ GroupActive s .dispB → GroupActive s .dispA → irqLevel s = s.cfg.levelOfGroup.dispA) ∧
    (¬ GroupActive s .dispB → ¬ GroupActive s .dispA → GroupActive s .superIO →
      irqLevel s = s.cfg.levelOfGroup.superIO) ∧
    (¬ GroupActive s .dispB → ¬ GroupActive s .dispA → ¬ GroupActive s .superIO → GroupActive s .timer →
      irqLevel s = s.cfg.levelOfGroup.timer) ∧
    ((∀ g, ¬ GroupActive s g) → irqLevel s = s.cfg.noneLevel)

/-- R111, R112: irq_level is NONE_LEVEL exactly when no group is active; any other value of it is the level of an active
group, and a group whose level it is is active. -/
def Obligations.LevelNamesActiveGroup : Prop :=
  ∀ (s : State), s.cfg.accepted = true →
    (irqLevel s = s.cfg.noneLevel ↔ ∀ g, ¬ GroupActive s g) ∧
    (irqLevel s ≠ s.cfg.noneLevel → ∃ g, GroupActive s g ∧ irqLevel s = s.cfg.levelOfGroup.get g) ∧
    ∀ g, irqLevel s = s.cfg.levelOfGroup.get g → GroupActive s g

/-- R33: irq_level is a function of pend and mask only. -/
def Obligations.IrqLevelOfPendAndMask : Prop :=
  ∀ (s t : State), s.cfg = t.cfg → s.pend = t.pend → s.mask = t.mask → irqLevel s = irqLevel t

/-- R118, R22: raising a line whose mask bit is set leaves irq_level as it was. -/
def Obligations.MaskedRaiseIsSilent : Prop :=
  ∀ (s t : State) (r : Word) (b : BitVec 3), (bankByte s.mask r.toNat).getLsbD b.toNat = true →
    exec (.raise r b) s = .next t → irqLevel t = irqLevel s

/-- R115: ACK of a level whose register index is out of range emits one Diag and answers the sentinel. -/
def Obligations.AckOutOfRange : Prop :=
  ∀ (s : State) (level : Word),
    (s.cfg.regIndexOfLevel level.toNat < 0 ∨ (s.cfg.ngroups : Int) ≤ s.cfg.regIndexOfLevel level.toNat) →
    exec (.ack level) s
      = .next { s with resp := { Response.default s.cfg with vector := s.cfg.vecSentinel, diags := [.event] } }

/-- R116: ACK of a level whose scanned byte is zero emits one Diag and answers the sentinel. -/
def Obligations.AckNoBitSet : Prop :=
  ∀ (s : State) (level : Word) (r : Nat), s.cfg.regIndexOfLevel level.toNat = (r : Int) → r < s.cfg.ngroups →
    (match s.cfg.vecScan with
      | .mask => bankByte s.mask r
      | .active => bankByte s.pend r &&& ~~~bankByte s.mask r) = 0 →
    exec (.ack level) s
      = .next { s with resp := { Response.default s.cfg with vector := s.cfg.vecSentinel, diags := [.event] } }

/-- R114, R117: ACK answers the vector of the lowest set bit of the scanned byte, with no Diag, and changes no
state. -/
def Obligations.AckNamesVector : Prop :=
  ∀ (s : State) (level : Word) (r b : Nat) (m : Byte), s.cfg.accepted = true →
    s.cfg.regIndexOfLevel level.toNat = (r : Int) → r < s.cfg.ngroups →
    m = (match s.cfg.vecScan with
      | .mask => bankByte s.mask r
      | .active => bankByte s.pend r &&& ~~~bankByte s.mask r) →
    m.getLsbD b = true → (∀ k < b, m.getLsbD k = false) →
    ∃ (v : Word) (base : Nat),
      exec (.ack level) s = .next { s with resp := { Response.default s.cfg with vector := v } } ∧
      s.cfg.regBase[r]? = some base ∧ v.toNat = base + b + 64

/-- R119: the vectors ACK can answer: REG_BASE(r) + b + 64 of a register and a bit, or the sentinel. -/
def Obligations.AckVectorsPossible : Prop :=
  ∀ (s t : State) (level : Word), s.cfg.accepted = true → exec (.ack level) s = .next t →
    t.resp.vector = s.cfg.vecSentinel ∨
      ∃ r b base, r < s.cfg.ngroups ∧ b ≤ 7 ∧ s.cfg.regBase[r]? = some base ∧ t.resp.vector.toNat = base + b + 64

/-- R118: RAISE sets one pending bit, sets no response field, and changes nothing else; R66: a group index that is
not below NGROUPS is refused. -/
def Obligations.RaiseSetsBit : Prop :=
  ∀ (s : State) (r : Word) (b : BitVec 3),
    (r.toNat < s.cfg.ngroups →
      exec (.raise r b) s
        = .next { s with
            pend := s.pend.set r.toNat (bankByte s.pend r.toNat ||| BitVec.twoPow 8 b.toNat),
            resp := Response.default s.cfg }) ∧
    (s.cfg.ngroups ≤ r.toNat → exec (.raise r b) s = .refused (.illegalFrame .groupOutOfRange))

/-- R174: two RAISEs give the same pending bank in either order. -/
def Obligations.RaisesCommute : Prop :=
  ∀ (s t u t' u' : State) (r1 r2 : Word) (b1 b2 : BitVec 3),
    exec (.raise r1 b1) s = .next t → exec (.raise r2 b2) t = .next u →
    exec (.raise r2 b2) s = .next t' → exec (.raise r1 b1) t' = .next u' → u.pend = u'.pend

/-- R160, R36, R37: RESET zeroes the block's own state and leaves M; then no level is reported and no line masked. -/
def Obligations.ResetZeroesBlock : Prop :=
  ∀ (s : State), ∃ t, exec .reset s = .next t ∧
    t = { s with
      pend := List.replicate s.cfg.ngroups 0x00, mask := List.replicate s.cfg.ngroups 0x00, timer := t.timer,
      kbd := 0x00, resp := Response.default s.cfg } ∧
    (∀ i, t.timer.get i = 0) ∧ irqLevel t = s.cfg.noneLevel ∧ ∀ g, ¬ GroupActive t g

/- Frames and whole-machine rules. -/

/-- The frame of the commands that only answer: RD.PEND, RD.MASK, RD.TMR, RD.TMRNA, RD.MEM, ACK, POLL (R45, R81,
R82, R84, R85, R87, R112, R117). -/
def Obligations.QueriesChangeOnlyResponse : Prop :=
  ∀ (s t : State) (i : Instr) (n : Size) (addr level : Word),
    i = .rdPend n addr ∨ i = .rdMask n addr ∨ i = .rdTmr n addr ∨ i = .rdTmrna n addr ∨ i = .rdMem n addr ∨
      i = .ack level ∨ i = .poll →
    exec i s = .next t →
    t.cfg = s.cfg ∧ t.pend = s.pend ∧ t.mask = s.mask ∧ t.timer = s.timer ∧ t.kbd = s.kbd ∧
      (∀ a, readByte t.mem a = readByte s.mem a) ∧ t.queue = s.queue ∧ t.clock = s.clock ∧ t.draws = s.draws

/-- The frame of RD.KBD and KEY (R83, R144): the counters, the mask bank, every pending byte but KEY's, the inputs and
all of M are unchanged. -/
def Obligations.KeyboardCommandsFrame : Prop :=
  ∀ (s t : State) (i : Instr) (n : Size) (addr code : Word) (down : Bool),
    i = .rdKbd n addr ∨ i = .key code down → exec i s = .next t →
    t.cfg = s.cfg ∧ t.mask = s.mask ∧ t.timer = s.timer ∧ (∀ a, readByte t.mem a = readByte s.mem a) ∧
      t.queue = s.queue ∧ t.clock = s.clock ∧ t.draws = s.draws ∧
      (∀ r, r ≠ s.cfg.groupIndex.superIO → bankByte t.pend r = bankByte s.pend r) ∧
      (i = .rdKbd n addr → t.pend = s.pend)

/-- The frame of WR.PEND, WR.MASK, WR.TMR, RAISE, ADV and RESET: none writes a byte of M, and each writes only the
piece its rule names (R89, R90, R91, R118, R130, R160). -/
def Obligations.RegisterWritesFrame : Prop :=
  ∀ (s t : State) (i : Instr) (n : Size) (addr v : Word) (b : BitVec 3),
    i = .wrPend n addr v ∨ i = .wrMask n addr v ∨ i = .wrTmr n addr v ∨ i = .raise addr b ∨ i = .adv addr v ∨
      i = .reset →
    exec i s = .next t →
    t.cfg = s.cfg ∧ (∀ a, readByte t.mem a = readByte s.mem a) ∧ t.queue = s.queue ∧ t.clock = s.clock ∧
      t.draws = s.draws ∧ (i ≠ .reset → t.kbd = s.kbd) ∧
      (i = .wrPend n addr v → t.mask = s.mask ∧ t.timer = s.timer ∧
        ∀ r, r ≠ addr.toNat - s.cfg.icrPendBase → bankByte t.pend r = bankByte s.pend r) ∧
      (i = .wrMask n addr v → t.pend = s.pend ∧ t.timer = s.timer ∧
        ∀ r, r ≠ addr.toNat - s.cfg.icrMaskBase → bankByte t.mask r = bankByte s.mask r) ∧
      (i = .wrTmr n addr v → t.pend = s.pend ∧ t.mask = s.mask ∧
        ∀ j, addr.toNat ≠ s.cfg.timerBase + 8 * (j : Fin 5).val → t.timer.get j = s.timer.get j) ∧
      (i = .raise addr b → t.mask = s.mask ∧ t.timer = s.timer ∧
        ∀ r, r ≠ addr.toNat → bankByte t.pend r = bankByte s.pend r) ∧
      (i = .adv addr v → t.pend = s.pend ∧ t.mask = s.mask)

/-- The frame of RD.RTC and WR.UNH (R92, R150): only bytes of M change, those of the store or the seven RTC bytes. -/
def Obligations.MemoryWritesFrame : Prop :=
  ∀ (s t : State) (i : Instr) (n : Size) (addr v : Word), s.cfg.accepted = true → s.mem.wf = true →
    i = .rdRtc n addr ∨ i = .wrUnh n addr v → exec i s = .next t →
    t.cfg = s.cfg ∧ t.pend = s.pend ∧ t.mask = s.mask ∧ t.timer = s.timer ∧ t.kbd = s.kbd ∧ t.queue = s.queue ∧
      (i = .wrUnh n addr v → t.clock = s.clock ∧ t.draws = s.draws ∧
        ∀ a, a < addr.toNat ∨ addr.toNat + n.bytes ≤ a → readByte t.mem a = readByte s.mem a) ∧
      (i = .rdRtc n addr → ∀ a, (∀ f, a ≠ s.cfg.rtcOff.get f) → readByte t.mem a = readByte s.mem a)

/-- R21: a pending bit rises only by RAISE or a KEY that is taken, and falls only by a WR.PEND with its bit set or by
RESET. -/
def Obligations.PendingBitsRiseAndFall : Prop :=
  ∀ (s t : State) (i : Instr) (r b : Nat), exec i s = .next t →
    ((bankByte s.pend r).getLsbD b = false → (bankByte t.pend r).getLsbD b = true →
      (∃ r' b', i = .raise r' b' ∧ r'.toNat = r ∧ b'.toNat = b) ∨
      (∃ code down, i = .key code down ∧ r = s.cfg.groupIndex.superIO ∧ b = s.cfg.kbdIrqBit ∧
        t.resp.signals = [s.cfg.levelOfGroup.superIO])) ∧
    ((bankByte s.pend r).getLsbD b = true → (bankByte t.pend r).getLsbD b = false →
      (∃ n addr v, i = .wrPend n addr v ∧ addr.toNat = s.cfg.icrPendBase + r ∧ v.getLsbD b = true) ∨ i = .reset)

/-- R22, R24, R25, R31, R171: the mask bank, the counters, the slot and M each change only by their own commands, and
only ACK emits a Diag. -/
def Obligations.EachPieceHasItsWriters : Prop :=
  ∀ (s t : State) (i : Instr), exec i s = .next t →
    (t.mask ≠ s.mask → i = .reset ∨ ∃ n addr v, i = .wrMask n addr v) ∧
    (t.timer ≠ s.timer → i = .reset ∨ (∃ n addr v, i = .wrTmr n addr v) ∨ ∃ cycles frames, i = .adv cycles frames) ∧
    (t.kbd ≠ s.kbd → i = .reset ∨ (∃ n addr, i = .rdKbd n addr) ∨ ∃ code down, i = .key code down) ∧
    (t.mem ≠ s.mem → (∃ n addr, i = .rdRtc n addr) ∨ ∃ n addr v, i = .wrUnh n addr v) ∧
    (t.clock ≠ s.clock ∨ t.draws ≠ s.draws → ∃ n addr, i = .rdRtc n addr) ∧
    (t.resp.diags ≠ [] → t.resp.diags = [.event] ∧ ∃ level, i = .ack level) ∧ t.cfg = s.cfg

/-- R29, R33, R130: what M holds never reaches the banks or the keyboard slot: two states that differ only in M still
agree on them after any command. -/
def Obligations.MemoryNeverReachesBanks : Prop :=
  ∀ (s t t' : State) (m : Memory) (i : Instr), exec i s = .next t → exec i { s with mem := m } = .next t' →
    t.pend = t'.pend ∧ t.mask = t'.mask ∧ t.kbd = t'.kbd ∧ irqLevel t = irqLevel t'
end

