-- ==== Sys2Proof/Laws/Config.lean ====
section
/-! SUPPORT. What an accepted configuration gives (spec/00_scope.md R8), and the row each well-formed RD or WR
address selects. -/

namespace Sys2Proof

@[simp] theorem Five.get_ofFn {α : Type} (g : Fin 5 → α) (i : Fin 5) : (Five.ofFn g).get i = g i := by
  fin_cases i <;> rfl

@[simp] theorem Five.get_set {α : Type} (f : Five α) (i j : Fin 5) (x : α) :
    (f.set i x).get j = if j = i then x else f.get j := by
  fin_cases i <;> fin_cases j <;> rfl

theorem Five.ext_get {α : Type} {f g : Five α} (h : ∀ i, f.get i = g.get i) : f = g := by
  have h0 := h 0
  have h1 := h 1
  have h2 := h 2
  have h3 := h 3
  have h4 := h 4
  cases f
  cases g
  simp_all [Five.get]

/-- The parts of acceptance. -/
theorem Config.accepted_iff (c : Config) :
    c.accepted = true ↔ c.GroupsOk ∧ c.LevelsOk ∧ c.WindowsOk ∧ c.RtcOffsOk ∧ c.CtrlOk ∧ c.TimerBankOk ∧ c.EnablesOk ∧
      c.KeyboardOk ∧ c.AddressesOk ∧ c.TablesOk := by
  simp only [Config.accepted, Bool.and_eq_true, decide_eq_true_eq, and_assoc]

theorem Config.groupsOk {c : Config} (h : c.accepted = true) : c.GroupsOk := ((Config.accepted_iff c).mp h).1

theorem Config.levelsOk {c : Config} (h : c.accepted = true) : c.LevelsOk := ((Config.accepted_iff c).mp h).2.1

theorem Config.windowsOk {c : Config} (h : c.accepted = true) : c.WindowsOk := ((Config.accepted_iff c).mp h).2.2.1

theorem Config.rtcOffsOk {c : Config} (h : c.accepted = true) : c.RtcOffsOk := ((Config.accepted_iff c).mp h).2.2.2.1

theorem Config.ctrlOk {c : Config} (h : c.accepted = true) : c.CtrlOk := ((Config.accepted_iff c).mp h).2.2.2.2.1

theorem Config.timerBankOk {c : Config} (h : c.accepted = true) : c.TimerBankOk :=
  ((Config.accepted_iff c).mp h).2.2.2.2.2.1

theorem Config.enablesOk {c : Config} (h : c.accepted = true) : c.EnablesOk :=
  ((Config.accepted_iff c).mp h).2.2.2.2.2.2.1

theorem Config.keyboardOk {c : Config} (h : c.accepted = true) : c.KeyboardOk :=
  ((Config.accepted_iff c).mp h).2.2.2.2.2.2.2.1

theorem Config.addressesOk {c : Config} (h : c.accepted = true) : c.AddressesOk :=
  ((Config.accepted_iff c).mp h).2.2.2.2.2.2.2.2.1

theorem Config.tablesOk {c : Config} (h : c.accepted = true) : c.TablesOk :=
  ((Config.accepted_iff c).mp h).2.2.2.2.2.2.2.2.2

/-- SCAN_TABLE has at most 128 entries. -/
theorem Config.scanTable_length {c : Config} (h : c.accepted = true) : c.scanTable.length ≤ 128 :=
  List.drop_eq_nil_iff.mp (Config.keyboardOk h).1

theorem Group.mem_all (g : Group) : g ∈ Group.all := by
  cases g <;> simp [Group.all]

theorem RtcField.mem_all (f : RtcField) : f ∈ RtcField.all := by
  cases f <;> simp [RtcField.all]

/-- The arbitrated groups have registers in the banks. -/
theorem Config.groupIndex_lt {c : Config} (h : c.accepted = true) (g : Group) : c.groupIndex.get g < c.ngroups :=
  (Config.groupsOk h).2.1 g (Group.mem_all g)

/-- Every RTC byte is a byte of the address space. -/
theorem Config.rtcOff_lt {c : Config} (h : c.accepted = true) (f : RtcField) : c.rtcOff.get f < Config.addrSpace :=
  (Config.addressesOk h).2.1 f (RtcField.mem_all f)

/-- Two disjoint windows have no address in common. -/
theorem Window.Disjoint.not_has {v w : Window} (h : v.Disjoint w) {a : Nat} (hv : v.Has a) : ¬ w.Has a := by
  intro hw
  unfold Window.Disjoint at h
  unfold Window.Has at hv hw
  omega

/-- The ten pairs of disjoint windows. -/
theorem Config.windows_disjoint {c : Config} (h : c.accepted = true) :
    (c.pendWindow.Disjoint c.maskWindow ∧ c.pendWindow.Disjoint c.kbdWindow ∧ c.pendWindow.Disjoint c.timerWindow ∧
      c.pendWindow.Disjoint c.rtcWindow) ∧
    (c.maskWindow.Disjoint c.kbdWindow ∧ c.maskWindow.Disjoint c.timerWindow ∧ c.maskWindow.Disjoint c.rtcWindow) ∧
    (c.kbdWindow.Disjoint c.timerWindow ∧ c.kbdWindow.Disjoint c.rtcWindow) ∧ c.timerWindow.Disjoint c.rtcWindow := by
  have hw := Config.windowsOk h
  simp only [Config.WindowsOk, Config.windows, List.pairwise_cons, List.mem_cons, List.not_mem_nil, or_false,
    forall_eq_or_imp, forall_eq] at hw
  obtain ⟨⟨a1, a2, a3, a4⟩, ⟨b1, b2, b3⟩, ⟨c1, c2⟩, d1, -⟩ := hw
  exact ⟨⟨a1, a2, a3, a4⟩, ⟨b1, b2, b3⟩, ⟨c1, c2⟩, d1⟩

theorem Config.kbdWindow_has (c : Config) (a : Nat) : c.kbdWindow.Has a ↔ a = c.kbdAddr := by
  simp only [Config.kbdWindow, Window.Has]
  omega

theorem Config.pendWindow_has (c : Config) (a : Nat) :
    c.pendWindow.Has a ↔ c.icrPendBase ≤ a ∧ a < c.icrPendBase + c.ngroups := Iff.rfl

theorem Config.maskWindow_has (c : Config) (a : Nat) :
    c.maskWindow.Has a ↔ c.icrMaskBase ≤ a ∧ a < c.icrMaskBase + c.ngroups := Iff.rfl

theorem Config.timerWindow_has (c : Config) (a : Nat) :
    c.timerWindow.Has a ↔ c.timerBase ≤ a ∧ a < c.timerBase + 40 := Iff.rfl

theorem Config.rtcWindow_has (c : Config) (a : Nat) :
    c.rtcWindow.Has a ↔ c.rtcBase ≤ a ∧ a < c.rtcBase + c.rtcSize := Iff.rfl

/-- The address of a counter is aligned in the timer window. -/
theorem Config.timerAligned_of_index {c : Config} {a : Nat} {i : Fin 5} (h : a = c.timerBase + 8 * i.val) :
    c.TimerAligned a := by
  have hi := i.isLt
  refine ⟨(Config.timerWindow_has c a).mpr ⟨by omega, by omega⟩, by omega⟩

/-- The counter an aligned address selects. -/
theorem Config.timerIndex_of_index {c : Config} {a : Nat} {i : Fin 5} (h : a = c.timerBase + 8 * i.val) :
    Fin.ofNat 5 ((a - c.timerBase) / 8) = i := by
  have hi := i.isLt
  apply Fin.ext
  simp only [Fin.val_ofNat]
  omega

/-- An aligned address is the address of the counter it selects. -/
theorem Config.index_of_timerAligned {c : Config} {a : Nat} (h : c.TimerAligned a) :
    a = c.timerBase + 8 * (Fin.ofNat 5 ((a - c.timerBase) / 8)).val := by
  obtain ⟨hw, hm⟩ := h
  rw [Config.timerWindow_has] at hw
  simp only [Fin.val_ofNat]
  omega

/-- The row an RD address selects, from the address condition of its row in the table. -/
theorem readTarget_of_wellFormed {c : Config} (h : c.accepted = true) (n : Size) (a : Word) :
    ((Instr.rdPend n a).wellFormed c = true → readTarget c a = .pend) ∧
    ((Instr.rdMask n a).wellFormed c = true → readTarget c a = .mask) ∧
    ((Instr.rdKbd n a).wellFormed c = true → readTarget c a = .kbd) ∧
    ((Instr.rdTmr n a).wellFormed c = true → readTarget c a = .tmr) ∧
    ((Instr.rdTmrna n a).wellFormed c = true → readTarget c a = .tmrna) ∧
    ((Instr.rdRtc n a).wellFormed c = true → readTarget c a = .rtc) ∧
    ((Instr.rdMem n a).wellFormed c = true → readTarget c a = .mem) := by
  obtain ⟨⟨a1, a2, a3, a4⟩, ⟨b1, b2, b3⟩, ⟨c1, c2⟩, d1⟩ := Config.windows_disjoint h
  have hk := Config.kbdWindow_has c a.toNat
  simp only [Instr.wellFormed, decide_eq_true_eq, readTarget]
  refine ⟨fun w => if_pos w, fun w => ?_, fun w => ?_, fun w => ?_, fun w => ?_, fun w => ?_, fun w => ?_⟩
  · rw [if_neg fun p => a1.not_has p w, if_pos w]
  · rw [if_neg fun p => a2.not_has p (hk.mpr w), if_neg fun p => b1.not_has p (hk.mpr w), if_pos w]
  · rw [if_neg fun p => a3.not_has p w.1, if_neg fun p => b2.not_has p w.1, if_neg fun p => c1.not_has (hk.mpr p) w.1,
      if_pos w.1, if_pos w.2]
  · rw [if_neg fun p => a3.not_has p w.1, if_neg fun p => b2.not_has p w.1, if_neg fun p => c1.not_has (hk.mpr p) w.1,
      if_pos w.1, if_neg w.2]
  · rw [if_neg fun p => a4.not_has p w, if_neg fun p => b3.not_has p w, if_neg fun p => c2.not_has (hk.mpr p) w,
      if_neg fun p => d1.not_has p w, if_pos w]
  · simp only [Config.windows, List.mem_cons, List.not_mem_nil, or_false, forall_eq_or_imp, forall_eq] at w
    obtain ⟨w1, w2, w3, w4, w5⟩ := w
    rw [if_neg w1, if_neg w2, if_neg fun p => w3 (hk.mpr p), if_neg w4, if_neg w5]

/-- The row a WR address selects, from the address condition of its row in the table. -/
theorem writeTarget_of_wellFormed {c : Config} (h : c.accepted = true) (n : Size) (a v : Word) :
    ((Instr.wrPend n a v).wellFormed c = true → writeTarget c a = .pend) ∧
    ((Instr.wrMask n a v).wellFormed c = true → writeTarget c a = .mask) ∧
    ((Instr.wrTmr n a v).wellFormed c = true → writeTarget c a = .tmr) ∧
    ((Instr.wrUnh n a v).wellFormed c = true → writeTarget c a = .unh) := by
  obtain ⟨⟨a1, -, a3, -⟩, ⟨-, b2, -⟩, -, -⟩ := Config.windows_disjoint h
  simp only [Instr.wellFormed, decide_eq_true_eq, writeTarget]
  refine ⟨fun w => if_pos w.1, fun w => ?_, fun w => ?_, fun w => ?_⟩
  · rw [if_neg fun p => a1.not_has p w.1, if_pos w.1]
  · rw [if_neg fun p => a3.not_has p w.1.1.1, if_neg fun p => b2.not_has p w.1.1.1, if_pos w.1]
  · rw [if_neg w.1, if_neg w.2.1, if_neg w.2.2.1]

end Sys2Proof
end

