-- ==== Sys2Proof/Laws/Decode.lean ====
section
/-! SUPPORT. The fields of a frame made from fields, and the frame made from its own fields
(spec/30_encoding.md R60). -/

namespace Sys2Proof

theorem Frame.make_toNat (op : BitVec 8) (sz : BitVec 2) (rsv : BitVec 22) (a d : Word) :
    (Frame.make op sz rsv a d).toNat =
      2 ^ 88 * op.toNat + 2 ^ 86 * sz.toNat + 2 ^ 64 * rsv.toNat + 2 ^ 32 * a.toNat + d.toNat := by
  have h1 := sz.isLt
  have h2 := rsv.isLt
  have h3 := a.isLt
  have h4 := d.isLt
  simp only [Frame.make, BitVec.toNat_append]
  rw [← Nat.shiftLeft_add_eq_or_of_lt h1, ← Nat.shiftLeft_add_eq_or_of_lt h2, ← Nat.shiftLeft_add_eq_or_of_lt h3,
    ← Nat.shiftLeft_add_eq_or_of_lt h4]
  simp only [Nat.shiftLeft_eq]
  ring

theorem Frame.op_toNat (f : Frame) : f.op.toNat = f.toNat / 2 ^ 88 := by
  have h := f.isLt
  simp only [Frame.op, BitVec.extractLsb'_toNat, Nat.shiftRight_eq_div_pow]
  omega

theorem Frame.sz_toNat (f : Frame) : f.sz.toNat = f.toNat / 2 ^ 86 % 2 ^ 2 := by
  simp only [Frame.sz, BitVec.extractLsb'_toNat, Nat.shiftRight_eq_div_pow]

theorem Frame.rsv_toNat (f : Frame) : f.rsv.toNat = f.toNat / 2 ^ 64 % 2 ^ 22 := by
  simp only [Frame.rsv, BitVec.extractLsb'_toNat, Nat.shiftRight_eq_div_pow]

theorem Frame.a_toNat (f : Frame) : f.a.toNat = f.toNat / 2 ^ 32 % 2 ^ 32 := by
  simp only [Frame.a, BitVec.extractLsb'_toNat, Nat.shiftRight_eq_div_pow]

theorem Frame.d_toNat (f : Frame) : f.d.toNat = f.toNat % 2 ^ 32 := by
  simp only [Frame.d, BitVec.extractLsb'_toNat, Nat.shiftRight_zero]

section
variable (op : BitVec 8) (sz : BitVec 2) (rsv : BitVec 22) (a d : Word)

@[simp] theorem Frame.make_op : (Frame.make op sz rsv a d).op = op := by
  apply BitVec.eq_of_toNat_eq
  have h0 := op.isLt
  have h1 := sz.isLt
  have h2 := rsv.isLt
  have h3 := a.isLt
  have h4 := d.isLt
  rw [Frame.op_toNat, Frame.make_toNat]
  omega

@[simp] theorem Frame.make_sz : (Frame.make op sz rsv a d).sz = sz := by
  apply BitVec.eq_of_toNat_eq
  have h1 := sz.isLt
  have h2 := rsv.isLt
  have h3 := a.isLt
  have h4 := d.isLt
  rw [Frame.sz_toNat, Frame.make_toNat]
  omega

@[simp] theorem Frame.make_rsv : (Frame.make op sz rsv a d).rsv = rsv := by
  apply BitVec.eq_of_toNat_eq
  have h2 := rsv.isLt
  have h3 := a.isLt
  have h4 := d.isLt
  rw [Frame.rsv_toNat, Frame.make_toNat]
  omega

@[simp] theorem Frame.make_a : (Frame.make op sz rsv a d).a = a := by
  apply BitVec.eq_of_toNat_eq
  have h3 := a.isLt
  have h4 := d.isLt
  rw [Frame.a_toNat, Frame.make_toNat]
  omega

@[simp] theorem Frame.make_d : (Frame.make op sz rsv a d).d = d := by
  apply BitVec.eq_of_toNat_eq
  have h4 := d.isLt
  rw [Frame.d_toNat, Frame.make_toNat]
  omega

end

/-- A frame is the concatenation of its fields: no bit stands outside them. -/
theorem Frame.make_fields (f : Frame) : Frame.make f.op f.sz f.rsv f.a f.d = f := by
  apply BitVec.eq_of_toNat_eq
  have h := f.isLt
  rw [Frame.make_toNat, Frame.op_toNat, Frame.sz_toNat, Frame.rsv_toNat, Frame.a_toNat, Frame.d_toNat]
  omega

@[simp] theorem decodeSize_code (n : Size) : decodeSize n.code = some n := by
  cases n <;> rfl

/-- The code of a decoded size is the code it was decoded from. -/
theorem code_of_decodeSize {sz : BitVec 2} {n : Size} (h : decodeSize sz = some n) : n.code = sz := by
  revert h
  revert sz
  cases n <;> decide

end Sys2Proof
end

