-- ==== Sys2Proof/Laws/Memory.lean ====
section
/-! SUPPORT. The laws of memory: what a read gives after a write, and that every write keeps the canonical form. -/

namespace Sys2Proof.Machine

open Sys2Proof

@[simp] theorem readByte_nil (a : Nat) : readByte [] a = unlistedByte := rfl

theorem Memory.wfFrom_mono {m : Memory} {k l : Nat} (h : Memory.wfFrom l m = true) (hk : k ≤ l) :
    Memory.wfFrom k m = true := by
  cases m with
  | nil => rfl
  | cons c rest =>
    simp only [Memory.wfFrom, Bool.and_eq_true, decide_eq_true_eq] at h ⊢
    exact ⟨⟨by omega, h.1.2⟩, h.2⟩

/-- Below the first listed address nothing is listed. -/
theorem readByte_below {m : Memory} {l a : Nat} (h : Memory.wfFrom l m = true) (ha : a < l) :
    readByte m a = unlistedByte := by
  induction m generalizing l with
  | nil => rfl
  | cons c rest ih =>
    simp only [Memory.wfFrom, Bool.and_eq_true, decide_eq_true_eq] at h
    simp only [readByte]
    rw [if_neg (by omega)]
    exact ih h.2 (by omega)

/-- A read of the written address gives the byte written. -/
theorem readByte_writeByte_same {m : Memory} {l : Nat} (h : Memory.wfFrom l m = true) (a : Nat) (b : Byte) :
    readByte (writeByte m a b) a = b := by
  induction m generalizing l with
  | nil => by_cases hb : b = unlistedByte <;> simp [writeByte, readByte, hb]
  | cons c rest ih =>
    obtain ⟨k, v⟩ := c
    simp only [Memory.wfFrom, Bool.and_eq_true, decide_eq_true_eq] at h
    simp only [writeByte]
    split
    · split
      · rename_i hak hb
        rw [hb, readByte, if_neg (by omega)]
        exact readByte_below h.2 (by omega)
      · simp [readByte]
    · split
      · split
        · rename_i hak hb
          rw [hb]
          exact readByte_below h.2 (by omega)
        · simp [readByte]
      · rw [readByte, if_neg (by omega)]
        exact ih h.2

/-- A read of any other address gives what it gave before. -/
theorem readByte_writeByte_other {m : Memory} {l : Nat} (h : Memory.wfFrom l m = true) {a x : Nat} (b : Byte)
    (hx : x ≠ a) : readByte (writeByte m a b) x = readByte m x := by
  induction m generalizing l with
  | nil => by_cases hb : b = unlistedByte <;> simp [writeByte, readByte, hb, hx.symm]
  | cons c rest ih =>
    obtain ⟨k, v⟩ := c
    simp only [Memory.wfFrom, Bool.and_eq_true, decide_eq_true_eq] at h
    simp only [writeByte]
    split
    · split
      · rfl
      · rw [readByte, if_neg (by omega)]
    · split
      · rename_i hak
        split
        · rw [readByte, if_neg (by omega)]
        · rw [readByte, if_neg (by omega), readByte, if_neg (by omega)]
      · rw [readByte, readByte, ih h.2]

/-- Reading a byte after writing a byte. -/
theorem readByte_writeByte {m : Memory} (h : m.wf = true) (a x : Nat) (b : Byte) :
    readByte (writeByte m a b) x = if x = a then b else readByte m x := by
  split
  · rename_i hx
    rw [hx]
    exact readByte_writeByte_same h a b
  · rename_i hx
    exact readByte_writeByte_other h b hx

theorem writeByte_wfFrom {m : Memory} {l : Nat} (h : Memory.wfFrom l m = true) {a : Nat} (hl : l ≤ a)
    (ha : a < Config.addrSpace) (b : Byte) : Memory.wfFrom l (writeByte m a b) = true := by
  induction m generalizing l with
  | nil => by_cases hb : b = unlistedByte <;> simp [writeByte, Memory.wfFrom, hb, hl, ha]
  | cons c rest ih =>
    obtain ⟨k, v⟩ := c
    have h' := h
    simp only [Memory.wfFrom, Bool.and_eq_true, decide_eq_true_eq] at h
    obtain ⟨⟨hk1, hk2, hv⟩, hrest⟩ := h
    simp only [writeByte]
    split
    · split
      · exact h'
      · rename_i hak hb
        simp only [Memory.wfFrom, Bool.and_eq_true, decide_eq_true_eq]
        exact ⟨⟨hl, ha, hb⟩, ⟨by omega, hk2, hv⟩, hrest⟩
    · split
      · split
        · exact Memory.wfFrom_mono hrest (by omega)
        · rename_i hak hb
          simp only [Memory.wfFrom, Bool.and_eq_true, decide_eq_true_eq]
          exact ⟨⟨hl, ha, hb⟩, hak ▸ hrest⟩
      · simp only [Memory.wfFrom, Bool.and_eq_true, decide_eq_true_eq]
        exact ⟨⟨hk1, hk2, hv⟩, ih hrest (by omega)⟩

/-- Writing a byte keeps the canonical form. -/
theorem writeByte_wf {m : Memory} (h : m.wf = true) {a : Nat} (ha : a < Config.addrSpace) (b : Byte) :
    (writeByte m a b).wf = true :=
  writeByte_wfFrom h (Nat.zero_le a) ha b

@[simp] theorem readBytes_length (m : Memory) (a n : Nat) : (readBytes m a n).length = n := by
  induction n generalizing a with
  | zero => rfl
  | succ n ih => simp [readBytes, ih]

@[simp] theorem bytesOfValue_length (n v : Nat) : (bytesOfValue n v).length = n := by
  induction n generalizing v with
  | zero => rfl
  | succ n ih => simp [bytesOfValue, ih]

@[simp] theorem orderBytes_length (o : ByteOrder) (bs : List Byte) : (orderBytes o bs).length = bs.length := by
  cases o <;> simp [orderBytes]

@[simp] theorem orderBytes_orderBytes (o : ByteOrder) (bs : List Byte) : orderBytes o (orderBytes o bs) = bs := by
  cases o <;> simp [orderBytes]

/-- Writing bytes inside the space keeps the canonical form. -/
theorem writeBytes_wf {m : Memory} (h : m.wf = true) {a : Nat} {bs : List Byte}
    (ha : a + bs.length ≤ Config.addrSpace) : (writeBytes m a bs).wf = true := by
  induction bs generalizing m a with
  | nil => exact h
  | cons b bs ih =>
    rw [List.length_cons] at ha
    exact ih (writeByte_wf h (by omega) b) (by omega)

/-- Bytes outside the written run read as before. -/
theorem readByte_writeBytes_outside {m : Memory} (h : m.wf = true) {a x : Nat} {bs : List Byte}
    (ha : a + bs.length ≤ Config.addrSpace) (hx : x < a ∨ a + bs.length ≤ x) :
    readByte (writeBytes m a bs) x = readByte m x := by
  induction bs generalizing m a with
  | nil => rfl
  | cons b bs ih =>
    rw [List.length_cons] at ha hx
    rw [writeBytes, ih (writeByte_wf h (by omega) b) (by omega) (by omega), readByte_writeByte h, if_neg (by omega)]

/-- A byte of the written run reads as written. -/
theorem readByte_writeBytes_inside {m : Memory} (h : m.wf = true) {a : Nat} {bs : List Byte}
    (ha : a + bs.length ≤ Config.addrSpace) {k : Nat} (hk : k < bs.length) :
    readByte (writeBytes m a bs) (a + k) = bs[k] := by
  induction bs generalizing m a k with
  | nil => exact absurd hk (Nat.not_lt_zero k)
  | cons b bs ih =>
    rw [List.length_cons] at ha hk
    have hw := writeByte_wf h (a := a) (by omega) b
    cases k with
    | zero =>
      rw [writeBytes, readByte_writeBytes_outside hw (by omega) (by omega), readByte_writeByte h, if_pos (by omega)]
      rfl
    | succ k =>
      have e : a + (k + 1) = a + 1 + k := by omega
      rw [writeBytes, e, ih hw (by omega) (by omega)]
      rfl

/-- Reading back the run just written. -/
theorem readBytes_writeBytes {m : Memory} (h : m.wf = true) {a : Nat} {bs : List Byte}
    (ha : a + bs.length ≤ Config.addrSpace) : readBytes (writeBytes m a bs) a bs.length = bs := by
  induction bs generalizing m a with
  | nil => rfl
  | cons b bs ih =>
    rw [List.length_cons] at ha
    have hw := writeByte_wf h (a := a) (by omega) b
    rw [List.length_cons, readBytes, writeBytes, ih hw (by omega),
      readByte_writeBytes_outside hw (by omega) (by omega), readByte_writeByte h, if_pos rfl]

theorem valueOfBytes_lt (bs : List Byte) : valueOfBytes bs < 256 ^ bs.length := by
  induction bs with
  | nil => simp [valueOfBytes]
  | cons b bs ih =>
    have hb : b.toNat < 256 := b.isLt
    rw [valueOfBytes, List.length_cons, pow_succ]
    omega

/-- The n low bytes of a value are worth the value modulo 256^n. -/
theorem valueOfBytes_bytesOfValue (n v : Nat) : valueOfBytes (bytesOfValue n v) = v % 256 ^ n := by
  induction n generalizing v with
  | zero => simp [bytesOfValue, valueOfBytes, Nat.mod_one]
  | succ n ih =>
    rw [bytesOfValue, valueOfBytes, ih, pow_succ, Nat.mul_comm (256 ^ n) 256, Nat.mod_mul, BitVec.toNat_ofNat]

/-- Byte k of a value, counted from the least significant. -/
theorem getElem_bytesOfValue (n v k : Nat) (h : k < (bytesOfValue n v).length) :
    ((bytesOfValue n v)[k]).toNat = v / 256 ^ k % 256 := by
  induction n generalizing v k with
  | zero => exact absurd h (Nat.not_lt_zero k)
  | succ n ih =>
    cases k with
    | zero => simp [bytesOfValue]
    | succ k =>
      have h' : k < (bytesOfValue n (v / 256)).length := by simpa using h
      simp only [bytesOfValue, List.getElem_cons_succ]
      rw [ih (v / 256) k h', Nat.div_div_eq_div_mul, pow_succ, Nat.mul_comm]

/-- Two memories in canonical form that read alike at every address are equal. -/
theorem Memory.ext_from {m m' : Memory} {l : Nat} (h : Memory.wfFrom l m = true) (h' : Memory.wfFrom l m' = true)
    (e : ∀ a, readByte m a = readByte m' a) : m = m' := by
  induction m generalizing l m' with
  | nil =>
    cases m' with
    | nil => rfl
    | cons c rest =>
      simp only [Memory.wfFrom, Bool.and_eq_true, decide_eq_true_eq] at h'
      have := e c.1
      simp only [readByte, if_pos] at this
      exact absurd this.symm h'.1.2.2
  | cons c rest ih =>
    obtain ⟨k, v⟩ := c
    cases m' with
    | nil =>
      simp only [Memory.wfFrom, Bool.and_eq_true, decide_eq_true_eq] at h
      have := e k
      simp only [readByte, if_pos] at this
      exact absurd this h.1.2.2
    | cons c' rest' =>
      obtain ⟨k', v'⟩ := c'
      simp only [Memory.wfFrom, Bool.and_eq_true, decide_eq_true_eq] at h h'
      have hk : k = k' := by
        rcases Nat.lt_trichotomy k k' with hlt | heq | hgt
        · have := e k
          rw [readByte, if_pos rfl, readByte, if_neg (by omega), readByte_below h'.2 (by omega)] at this
          exact absurd this h.1.2.2
        · exact heq
        · have := (e k').symm
          rw [readByte, if_pos rfl, readByte, if_neg (by omega), readByte_below h.2 (by omega)] at this
          exact absurd this h'.1.2.2
      subst hk
      have hv : v = v' := by
        have := e k
        simpa [readByte] using this
      subst hv
      have hrest : ∀ a, readByte rest a = readByte rest' a := by
        intro a
        by_cases ha : k = a
        · rw [readByte_below h.2 (by omega), readByte_below h'.2 (by omega)]
        · have := e a
          rwa [readByte, if_neg ha, readByte, if_neg ha] at this
      rw [ih h.2 h'.2 hrest]

/-- Equal reads make equal memories: the canonical form is canonical. -/
theorem Memory.ext_wf {m m' : Memory} (h : m.wf = true) (h' : m'.wf = true)
    (e : ∀ a, readByte m a = readByte m' a) : m = m' :=
  Memory.ext_from h h' e

/-- MemWrite keeps the canonical form. -/
theorem memWrite_wf {m : Memory} (h : m.wf = true) (o : ByteOrder) {a n : Nat} (ha : Fits a n) (v : Nat) :
    (memWrite o m a n v).wf = true :=
  writeBytes_wf h (by simpa using ha)

/-- MemWrite leaves every byte outside its n bytes as it was. -/
theorem readByte_memWrite_outside {m : Memory} (h : m.wf = true) (o : ByteOrder) {a n : Nat} (ha : Fits a n) (v : Nat)
    {x : Nat} (hx : x < a ∨ a + n ≤ x) : readByte (memWrite o m a n v) x = readByte m x :=
  readByte_writeBytes_outside h (by simpa using ha) (by simpa using hx)

/-- Byte k of the run a MemWrite stores: the byte of the value at that position in the byte order. -/
theorem readByte_memWrite_inside {m : Memory} (h : m.wf = true) (o : ByteOrder) {a n : Nat} (ha : Fits a n) (v : Nat)
    {k : Nat} (hk : k < n) :
    (readByte (memWrite o m a n v) (a + k)).toNat =
      match o with
      | .big => v / 256 ^ (n - 1 - k) % 256
      | .little => v / 256 ^ k % 256 := by
  have hl : (orderBytes o (bytesOfValue n v)).length = n := by simp
  rw [memWrite, readByte_writeBytes_inside h (by rw [hl]; exact ha) (by rw [hl]; exact hk)]
  cases o with
  | big => simp only [orderBytes, List.getElem_reverse, getElem_bytesOfValue, bytesOfValue_length]
  | little => simp only [orderBytes, getElem_bytesOfValue]

end Sys2Proof.Machine
end

