-- ==== Sys2Proof/Laws/State.lean ====
section
/-! SUPPORT. What each update of the state does to each field, one lemma for each, true by definition. -/

namespace Sys2Proof.Machine

open Sys2Proof

@[simp] theorem State.setPend_cfg (s : State) (bank : List Byte) : (s.setPend bank).cfg = s.cfg := rfl
@[simp] theorem State.setPend_pend (s : State) (bank : List Byte) : (s.setPend bank).pend = bank := rfl
@[simp] theorem State.setPend_mask (s : State) (bank : List Byte) : (s.setPend bank).mask = s.mask := rfl
@[simp] theorem State.setPend_timer (s : State) (bank : List Byte) : (s.setPend bank).timer = s.timer := rfl
@[simp] theorem State.setPend_kbd (s : State) (bank : List Byte) : (s.setPend bank).kbd = s.kbd := rfl
@[simp] theorem State.setPend_mem (s : State) (bank : List Byte) : (s.setPend bank).mem = s.mem := rfl
@[simp] theorem State.setPend_queue (s : State) (bank : List Byte) : (s.setPend bank).queue = s.queue := rfl
@[simp] theorem State.setPend_clock (s : State) (bank : List Byte) : (s.setPend bank).clock = s.clock := rfl
@[simp] theorem State.setPend_draws (s : State) (bank : List Byte) : (s.setPend bank).draws = s.draws := rfl
@[simp] theorem State.setPend_resp (s : State) (bank : List Byte) : (s.setPend bank).resp = s.resp := rfl

@[simp] theorem State.setMask_cfg (s : State) (bank : List Byte) : (s.setMask bank).cfg = s.cfg := rfl
@[simp] theorem State.setMask_pend (s : State) (bank : List Byte) : (s.setMask bank).pend = s.pend := rfl
@[simp] theorem State.setMask_mask (s : State) (bank : List Byte) : (s.setMask bank).mask = bank := rfl
@[simp] theorem State.setMask_timer (s : State) (bank : List Byte) : (s.setMask bank).timer = s.timer := rfl
@[simp] theorem State.setMask_kbd (s : State) (bank : List Byte) : (s.setMask bank).kbd = s.kbd := rfl
@[simp] theorem State.setMask_mem (s : State) (bank : List Byte) : (s.setMask bank).mem = s.mem := rfl
@[simp] theorem State.setMask_queue (s : State) (bank : List Byte) : (s.setMask bank).queue = s.queue := rfl
@[simp] theorem State.setMask_clock (s : State) (bank : List Byte) : (s.setMask bank).clock = s.clock := rfl
@[simp] theorem State.setMask_draws (s : State) (bank : List Byte) : (s.setMask bank).draws = s.draws := rfl
@[simp] theorem State.setMask_resp (s : State) (bank : List Byte) : (s.setMask bank).resp = s.resp := rfl

@[simp] theorem State.setTimer_cfg (s : State) (t : Five Nat) : (s.setTimer t).cfg = s.cfg := rfl
@[simp] theorem State.setTimer_pend (s : State) (t : Five Nat) : (s.setTimer t).pend = s.pend := rfl
@[simp] theorem State.setTimer_mask (s : State) (t : Five Nat) : (s.setTimer t).mask = s.mask := rfl
@[simp] theorem State.setTimer_timer (s : State) (t : Five Nat) : (s.setTimer t).timer = t := rfl
@[simp] theorem State.setTimer_kbd (s : State) (t : Five Nat) : (s.setTimer t).kbd = s.kbd := rfl
@[simp] theorem State.setTimer_mem (s : State) (t : Five Nat) : (s.setTimer t).mem = s.mem := rfl
@[simp] theorem State.setTimer_queue (s : State) (t : Five Nat) : (s.setTimer t).queue = s.queue := rfl
@[simp] theorem State.setTimer_clock (s : State) (t : Five Nat) : (s.setTimer t).clock = s.clock := rfl
@[simp] theorem State.setTimer_draws (s : State) (t : Five Nat) : (s.setTimer t).draws = s.draws := rfl
@[simp] theorem State.setTimer_resp (s : State) (t : Five Nat) : (s.setTimer t).resp = s.resp := rfl

@[simp] theorem State.setKbd_cfg (s : State) (b : Byte) : (s.setKbd b).cfg = s.cfg := rfl
@[simp] theorem State.setKbd_pend (s : State) (b : Byte) : (s.setKbd b).pend = s.pend := rfl
@[simp] theorem State.setKbd_mask (s : State) (b : Byte) : (s.setKbd b).mask = s.mask := rfl
@[simp] theorem State.setKbd_timer (s : State) (b : Byte) : (s.setKbd b).timer = s.timer := rfl
@[simp] theorem State.setKbd_kbd (s : State) (b : Byte) : (s.setKbd b).kbd = b := rfl
@[simp] theorem State.setKbd_mem (s : State) (b : Byte) : (s.setKbd b).mem = s.mem := rfl
@[simp] theorem State.setKbd_queue (s : State) (b : Byte) : (s.setKbd b).queue = s.queue := rfl
@[simp] theorem State.setKbd_clock (s : State) (b : Byte) : (s.setKbd b).clock = s.clock := rfl
@[simp] theorem State.setKbd_draws (s : State) (b : Byte) : (s.setKbd b).draws = s.draws := rfl
@[simp] theorem State.setKbd_resp (s : State) (b : Byte) : (s.setKbd b).resp = s.resp := rfl

@[simp] theorem State.setMem_cfg (s : State) (m : Memory) : (s.setMem m).cfg = s.cfg := rfl
@[simp] theorem State.setMem_pend (s : State) (m : Memory) : (s.setMem m).pend = s.pend := rfl
@[simp] theorem State.setMem_mask (s : State) (m : Memory) : (s.setMem m).mask = s.mask := rfl
@[simp] theorem State.setMem_timer (s : State) (m : Memory) : (s.setMem m).timer = s.timer := rfl
@[simp] theorem State.setMem_kbd (s : State) (m : Memory) : (s.setMem m).kbd = s.kbd := rfl
@[simp] theorem State.setMem_mem (s : State) (m : Memory) : (s.setMem m).mem = m := rfl
@[simp] theorem State.setMem_queue (s : State) (m : Memory) : (s.setMem m).queue = s.queue := rfl
@[simp] theorem State.setMem_clock (s : State) (m : Memory) : (s.setMem m).clock = s.clock := rfl
@[simp] theorem State.setMem_draws (s : State) (m : Memory) : (s.setMem m).draws = s.draws := rfl
@[simp] theorem State.setMem_resp (s : State) (m : Memory) : (s.setMem m).resp = s.resp := rfl

@[simp] theorem State.respond_cfg (s : State) (r : Response) : (s.respond r).cfg = s.cfg := rfl
@[simp] theorem State.respond_pend (s : State) (r : Response) : (s.respond r).pend = s.pend := rfl
@[simp] theorem State.respond_mask (s : State) (r : Response) : (s.respond r).mask = s.mask := rfl
@[simp] theorem State.respond_timer (s : State) (r : Response) : (s.respond r).timer = s.timer := rfl
@[simp] theorem State.respond_kbd (s : State) (r : Response) : (s.respond r).kbd = s.kbd := rfl
@[simp] theorem State.respond_mem (s : State) (r : Response) : (s.respond r).mem = s.mem := rfl
@[simp] theorem State.respond_queue (s : State) (r : Response) : (s.respond r).queue = s.queue := rfl
@[simp] theorem State.respond_clock (s : State) (r : Response) : (s.respond r).clock = s.clock := rfl
@[simp] theorem State.respond_draws (s : State) (r : Response) : (s.respond r).draws = s.draws := rfl
@[simp] theorem State.respond_resp (s : State) (r : Response) : (s.respond r).resp = r := rfl

@[simp] theorem State.setPending_cfg (s : State) (r b : Nat) : (s.setPending r b).cfg = s.cfg := rfl
@[simp] theorem State.setPending_pend (s : State) (r b : Nat) :
    (s.setPending r b).pend = s.pend.set r (bankByte s.pend r ||| (1 : Byte) <<< b) := rfl
@[simp] theorem State.setPending_mask (s : State) (r b : Nat) : (s.setPending r b).mask = s.mask := rfl
@[simp] theorem State.setPending_timer (s : State) (r b : Nat) : (s.setPending r b).timer = s.timer := rfl
@[simp] theorem State.setPending_kbd (s : State) (r b : Nat) : (s.setPending r b).kbd = s.kbd := rfl
@[simp] theorem State.setPending_mem (s : State) (r b : Nat) : (s.setPending r b).mem = s.mem := rfl
@[simp] theorem State.setPending_queue (s : State) (r b : Nat) : (s.setPending r b).queue = s.queue := rfl
@[simp] theorem State.setPending_clock (s : State) (r b : Nat) : (s.setPending r b).clock = s.clock := rfl
@[simp] theorem State.setPending_draws (s : State) (r b : Nat) : (s.setPending r b).draws = s.draws := rfl
@[simp] theorem State.setPending_resp (s : State) (r b : Nat) : (s.setPending r b).resp = s.resp := rfl

@[simp] theorem State.clearPending_cfg (s : State) (r : Nat) (v : Byte) : (s.clearPending r v).cfg = s.cfg := rfl
@[simp] theorem State.clearPending_pend (s : State) (r : Nat) (v : Byte) :
    (s.clearPending r v).pend = s.pend.set r (bankByte s.pend r &&& ~~~v) := rfl
@[simp] theorem State.clearPending_mask (s : State) (r : Nat) (v : Byte) : (s.clearPending r v).mask = s.mask := rfl
@[simp] theorem State.clearPending_timer (s : State) (r : Nat) (v : Byte) :
    (s.clearPending r v).timer = s.timer := rfl
@[simp] theorem State.clearPending_kbd (s : State) (r : Nat) (v : Byte) : (s.clearPending r v).kbd = s.kbd := rfl
@[simp] theorem State.clearPending_mem (s : State) (r : Nat) (v : Byte) : (s.clearPending r v).mem = s.mem := rfl
@[simp] theorem State.clearPending_queue (s : State) (r : Nat) (v : Byte) :
    (s.clearPending r v).queue = s.queue := rfl
@[simp] theorem State.clearPending_clock (s : State) (r : Nat) (v : Byte) :
    (s.clearPending r v).clock = s.clock := rfl
@[simp] theorem State.clearPending_draws (s : State) (r : Nat) (v : Byte) :
    (s.clearPending r v).draws = s.draws := rfl
@[simp] theorem State.clearPending_resp (s : State) (r : Nat) (v : Byte) : (s.clearPending r v).resp = s.resp := rfl

@[simp] theorem State.setMaskByte_cfg (s : State) (r : Nat) (v : Byte) : (s.setMaskByte r v).cfg = s.cfg := rfl
@[simp] theorem State.setMaskByte_pend (s : State) (r : Nat) (v : Byte) : (s.setMaskByte r v).pend = s.pend := rfl
@[simp] theorem State.setMaskByte_mask (s : State) (r : Nat) (v : Byte) :
    (s.setMaskByte r v).mask = s.mask.set r v := rfl
@[simp] theorem State.setMaskByte_timer (s : State) (r : Nat) (v : Byte) : (s.setMaskByte r v).timer = s.timer := rfl
@[simp] theorem State.setMaskByte_kbd (s : State) (r : Nat) (v : Byte) : (s.setMaskByte r v).kbd = s.kbd := rfl
@[simp] theorem State.setMaskByte_mem (s : State) (r : Nat) (v : Byte) : (s.setMaskByte r v).mem = s.mem := rfl
@[simp] theorem State.setMaskByte_queue (s : State) (r : Nat) (v : Byte) : (s.setMaskByte r v).queue = s.queue := rfl
@[simp] theorem State.setMaskByte_clock (s : State) (r : Nat) (v : Byte) : (s.setMaskByte r v).clock = s.clock := rfl
@[simp] theorem State.setMaskByte_draws (s : State) (r : Nat) (v : Byte) : (s.setMaskByte r v).draws = s.draws := rfl
@[simp] theorem State.setMaskByte_resp (s : State) (r : Nat) (v : Byte) : (s.setMaskByte r v).resp = s.resp := rfl

@[simp] theorem State.afterDraw_cfg (s : State) : (s.afterDraw).cfg = s.cfg := rfl
@[simp] theorem State.afterDraw_pend (s : State) : (s.afterDraw).pend = s.pend := rfl
@[simp] theorem State.afterDraw_mask (s : State) : (s.afterDraw).mask = s.mask := rfl
@[simp] theorem State.afterDraw_timer (s : State) : (s.afterDraw).timer = s.timer := rfl
@[simp] theorem State.afterDraw_kbd (s : State) : (s.afterDraw).kbd = s.kbd := rfl
@[simp] theorem State.afterDraw_mem (s : State) : (s.afterDraw).mem = s.mem := rfl
@[simp] theorem State.afterDraw_queue (s : State) : (s.afterDraw).queue = s.queue := rfl
@[simp] theorem State.afterDraw_clock (s : State) : (s.afterDraw).clock = s.clock.tail := rfl
@[simp] theorem State.afterDraw_draws (s : State) : (s.afterDraw).draws = s.draws + 1 := rfl
@[simp] theorem State.afterDraw_resp (s : State) : (s.afterDraw).resp = s.resp := rfl

@[simp] theorem State.offer_cfg (s : State) (f : Frame) : (s.offer f).cfg = s.cfg := rfl
@[simp] theorem State.offer_pend (s : State) (f : Frame) : (s.offer f).pend = s.pend := rfl
@[simp] theorem State.offer_mask (s : State) (f : Frame) : (s.offer f).mask = s.mask := rfl
@[simp] theorem State.offer_timer (s : State) (f : Frame) : (s.offer f).timer = s.timer := rfl
@[simp] theorem State.offer_kbd (s : State) (f : Frame) : (s.offer f).kbd = s.kbd := rfl
@[simp] theorem State.offer_mem (s : State) (f : Frame) : (s.offer f).mem = s.mem := rfl
@[simp] theorem State.offer_queue (s : State) (f : Frame) : (s.offer f).queue = f :: s.queue := rfl
@[simp] theorem State.offer_clock (s : State) (f : Frame) : (s.offer f).clock = s.clock := rfl
@[simp] theorem State.offer_draws (s : State) (f : Frame) : (s.offer f).draws = s.draws := rfl
@[simp] theorem State.offer_resp (s : State) (f : Frame) : (s.offer f).resp = s.resp := rfl

@[simp] theorem State.respondNone_cfg (s : State) : (s.respondNone).cfg = s.cfg := rfl
@[simp] theorem State.respondNone_pend (s : State) : (s.respondNone).pend = s.pend := rfl
@[simp] theorem State.respondNone_mask (s : State) : (s.respondNone).mask = s.mask := rfl
@[simp] theorem State.respondNone_timer (s : State) : (s.respondNone).timer = s.timer := rfl
@[simp] theorem State.respondNone_kbd (s : State) : (s.respondNone).kbd = s.kbd := rfl
@[simp] theorem State.respondNone_mem (s : State) : (s.respondNone).mem = s.mem := rfl
@[simp] theorem State.respondNone_queue (s : State) : (s.respondNone).queue = s.queue := rfl
@[simp] theorem State.respondNone_clock (s : State) : (s.respondNone).clock = s.clock := rfl
@[simp] theorem State.respondNone_draws (s : State) : (s.respondNone).draws = s.draws := rfl
@[simp] theorem State.respondNone_resp (s : State) : (s.respondNone).resp = Response.default s.cfg := rfl

@[simp] theorem State.respondData_cfg (s : State) (w : Word) : (s.respondData w).cfg = s.cfg := rfl
@[simp] theorem State.respondData_pend (s : State) (w : Word) : (s.respondData w).pend = s.pend := rfl
@[simp] theorem State.respondData_mask (s : State) (w : Word) : (s.respondData w).mask = s.mask := rfl
@[simp] theorem State.respondData_timer (s : State) (w : Word) : (s.respondData w).timer = s.timer := rfl
@[simp] theorem State.respondData_kbd (s : State) (w : Word) : (s.respondData w).kbd = s.kbd := rfl
@[simp] theorem State.respondData_mem (s : State) (w : Word) : (s.respondData w).mem = s.mem := rfl
@[simp] theorem State.respondData_queue (s : State) (w : Word) : (s.respondData w).queue = s.queue := rfl
@[simp] theorem State.respondData_clock (s : State) (w : Word) : (s.respondData w).clock = s.clock := rfl
@[simp] theorem State.respondData_draws (s : State) (w : Word) : (s.respondData w).draws = s.draws := rfl
@[simp] theorem State.respondData_resp (s : State) (w : Word) :
    (s.respondData w).resp = { Response.default s.cfg with rdata := w } := rfl

@[simp] theorem State.respondHandled_cfg (s : State) (h : Bool) : (s.respondHandled h).cfg = s.cfg := rfl
@[simp] theorem State.respondHandled_pend (s : State) (h : Bool) : (s.respondHandled h).pend = s.pend := rfl
@[simp] theorem State.respondHandled_mask (s : State) (h : Bool) : (s.respondHandled h).mask = s.mask := rfl
@[simp] theorem State.respondHandled_timer (s : State) (h : Bool) : (s.respondHandled h).timer = s.timer := rfl
@[simp] theorem State.respondHandled_kbd (s : State) (h : Bool) : (s.respondHandled h).kbd = s.kbd := rfl
@[simp] theorem State.respondHandled_mem (s : State) (h : Bool) : (s.respondHandled h).mem = s.mem := rfl
@[simp] theorem State.respondHandled_queue (s : State) (h : Bool) : (s.respondHandled h).queue = s.queue := rfl
@[simp] theorem State.respondHandled_clock (s : State) (h : Bool) : (s.respondHandled h).clock = s.clock := rfl
@[simp] theorem State.respondHandled_draws (s : State) (h : Bool) : (s.respondHandled h).draws = s.draws := rfl
@[simp] theorem State.respondHandled_resp (s : State) (h : Bool) :
    (s.respondHandled h).resp = { Response.default s.cfg with handled := h } := rfl

@[simp] theorem State.respondLevel_cfg (s : State) (l : Nat) : (s.respondLevel l).cfg = s.cfg := rfl
@[simp] theorem State.respondLevel_pend (s : State) (l : Nat) : (s.respondLevel l).pend = s.pend := rfl
@[simp] theorem State.respondLevel_mask (s : State) (l : Nat) : (s.respondLevel l).mask = s.mask := rfl
@[simp] theorem State.respondLevel_timer (s : State) (l : Nat) : (s.respondLevel l).timer = s.timer := rfl
@[simp] theorem State.respondLevel_kbd (s : State) (l : Nat) : (s.respondLevel l).kbd = s.kbd := rfl
@[simp] theorem State.respondLevel_mem (s : State) (l : Nat) : (s.respondLevel l).mem = s.mem := rfl
@[simp] theorem State.respondLevel_queue (s : State) (l : Nat) : (s.respondLevel l).queue = s.queue := rfl
@[simp] theorem State.respondLevel_clock (s : State) (l : Nat) : (s.respondLevel l).clock = s.clock := rfl
@[simp] theorem State.respondLevel_draws (s : State) (l : Nat) : (s.respondLevel l).draws = s.draws := rfl
@[simp] theorem State.respondLevel_resp (s : State) (l : Nat) :
    (s.respondLevel l).resp = { Response.default s.cfg with level := l } := rfl

@[simp] theorem State.respondVector_cfg (s : State) (v : Word) : (s.respondVector v).cfg = s.cfg := rfl
@[simp] theorem State.respondVector_pend (s : State) (v : Word) : (s.respondVector v).pend = s.pend := rfl
@[simp] theorem State.respondVector_mask (s : State) (v : Word) : (s.respondVector v).mask = s.mask := rfl
@[simp] theorem State.respondVector_timer (s : State) (v : Word) : (s.respondVector v).timer = s.timer := rfl
@[simp] theorem State.respondVector_kbd (s : State) (v : Word) : (s.respondVector v).kbd = s.kbd := rfl
@[simp] theorem State.respondVector_mem (s : State) (v : Word) : (s.respondVector v).mem = s.mem := rfl
@[simp] theorem State.respondVector_queue (s : State) (v : Word) : (s.respondVector v).queue = s.queue := rfl
@[simp] theorem State.respondVector_clock (s : State) (v : Word) : (s.respondVector v).clock = s.clock := rfl
@[simp] theorem State.respondVector_draws (s : State) (v : Word) : (s.respondVector v).draws = s.draws := rfl
@[simp] theorem State.respondVector_resp (s : State) (v : Word) :
    (s.respondVector v).resp = { Response.default s.cfg with vector := v } := rfl

@[simp] theorem State.respondSentinel_cfg (s : State) : (s.respondSentinel).cfg = s.cfg := rfl
@[simp] theorem State.respondSentinel_pend (s : State) : (s.respondSentinel).pend = s.pend := rfl
@[simp] theorem State.respondSentinel_mask (s : State) : (s.respondSentinel).mask = s.mask := rfl
@[simp] theorem State.respondSentinel_timer (s : State) : (s.respondSentinel).timer = s.timer := rfl
@[simp] theorem State.respondSentinel_kbd (s : State) : (s.respondSentinel).kbd = s.kbd := rfl
@[simp] theorem State.respondSentinel_mem (s : State) : (s.respondSentinel).mem = s.mem := rfl
@[simp] theorem State.respondSentinel_queue (s : State) : (s.respondSentinel).queue = s.queue := rfl
@[simp] theorem State.respondSentinel_clock (s : State) : (s.respondSentinel).clock = s.clock := rfl
@[simp] theorem State.respondSentinel_draws (s : State) : (s.respondSentinel).draws = s.draws := rfl
@[simp] theorem State.respondSentinel_resp (s : State) :
    (s.respondSentinel).resp = { Response.default s.cfg with vector := s.cfg.vecSentinel, diags := [.event] } := rfl

@[simp] theorem State.respondSignal_cfg (s : State) (l : Nat) : (s.respondSignal l).cfg = s.cfg := rfl
@[simp] theorem State.respondSignal_pend (s : State) (l : Nat) : (s.respondSignal l).pend = s.pend := rfl
@[simp] theorem State.respondSignal_mask (s : State) (l : Nat) : (s.respondSignal l).mask = s.mask := rfl
@[simp] theorem State.respondSignal_timer (s : State) (l : Nat) : (s.respondSignal l).timer = s.timer := rfl
@[simp] theorem State.respondSignal_kbd (s : State) (l : Nat) : (s.respondSignal l).kbd = s.kbd := rfl
@[simp] theorem State.respondSignal_mem (s : State) (l : Nat) : (s.respondSignal l).mem = s.mem := rfl
@[simp] theorem State.respondSignal_queue (s : State) (l : Nat) : (s.respondSignal l).queue = s.queue := rfl
@[simp] theorem State.respondSignal_clock (s : State) (l : Nat) : (s.respondSignal l).clock = s.clock := rfl
@[simp] theorem State.respondSignal_draws (s : State) (l : Nat) : (s.respondSignal l).draws = s.draws := rfl
@[simp] theorem State.respondSignal_resp (s : State) (l : Nat) :
    (s.respondSignal l).resp = { Response.default s.cfg with signals := [l] } := rfl

@[simp] theorem State.afterSnapshot_cfg (s : State) : (s.afterSnapshot).cfg = s.cfg := rfl
@[simp] theorem State.afterSnapshot_pend (s : State) : (s.afterSnapshot).pend = s.pend := rfl
@[simp] theorem State.afterSnapshot_mask (s : State) : (s.afterSnapshot).mask = s.mask := rfl
@[simp] theorem State.afterSnapshot_timer (s : State) : (s.afterSnapshot).timer = s.timer := rfl
@[simp] theorem State.afterSnapshot_kbd (s : State) : (s.afterSnapshot).kbd = s.kbd := rfl
@[simp] theorem State.afterSnapshot_mem (s : State) :
    (s.afterSnapshot).mem = snapshot s.cfg s.nextReading s.mem := rfl
@[simp] theorem State.afterSnapshot_queue (s : State) : (s.afterSnapshot).queue = s.queue := rfl
@[simp] theorem State.afterSnapshot_clock (s : State) : (s.afterSnapshot).clock = s.clock.tail := rfl
@[simp] theorem State.afterSnapshot_draws (s : State) : (s.afterSnapshot).draws = s.draws + 1 := rfl
@[simp] theorem State.afterSnapshot_resp (s : State) : (s.afterSnapshot).resp = s.resp := rfl

@[simp] theorem irqLevel_respond (s : State) (r : Response) : irqLevel (s.respond r) = irqLevel s := rfl

/-- Reset under a configuration leaves that configuration in place. -/
@[simp] theorem State.resetWith_cfg (c : Config) : (State.resetWith c).cfg = c := rfl

end Sys2Proof.Machine
end

