-- ==== Sys2Proof/Laws/Exec.lean ====
section
/-! SUPPORT. What each meaning can answer: exactly when it answers a next state, and which. A proof about a meaning
cites its lemma here and need not unfold it. -/

namespace Sys2Proof.Machine

open Sys2Proof

/-- No step faults: there is no fault (spec/60_exceptions.md R170). -/
theorem not_fault {o : Host.Outcome State Fault Refusal} (x : Fault) : o ≠ .fault x := nomatch x

section
variable {s t : State} {n : Size} {addr v : Word}

theorem execRdPend_next : execRdPend n addr s = .next t ↔
    readTarget s.cfg addr = .pend ∧ t = s.respondData (zextByte (bankByte s.pend (pendIndex s.cfg addr))) := by
  unfold execRdPend
  split <;> simp_all [eq_comm]

theorem execRdMask_next : execRdMask n addr s = .next t ↔
    readTarget s.cfg addr = .mask ∧ t = s.respondData (zextByte (bankByte s.mask (maskIndex s.cfg addr))) := by
  unfold execRdMask
  split <;> simp_all [eq_comm]

theorem execRdKbd_next : execRdKbd n addr s = .next t ↔
    readTarget s.cfg addr = .kbd ∧ t = (s.setKbd 0x00).respondData (zextByte s.kbd) := by
  unfold execRdKbd
  split <;> simp_all [eq_comm]

theorem execRdTmr_next : execRdTmr n addr s = .next t ↔
    readTarget s.cfg addr = .tmr ∧ t = s.respondData (timerData s addr n) := by
  unfold execRdTmr
  split <;> simp_all [eq_comm]

theorem readMemory_next : readMemory n addr s = .next t ↔
    Fits addr.toNat n.bytes ∧ t = s.respondData (dataAt s addr n) := by
  unfold readMemory
  split <;> simp_all [eq_comm]

theorem execRdTmrna_next : execRdTmrna n addr s = .next t ↔
    readTarget s.cfg addr = .tmrna ∧ Fits addr.toNat n.bytes ∧ t = s.respondData (dataAt s addr n) := by
  unfold execRdTmrna
  split
  · rename_i h
    simp [readMemory_next, h]
  · simp_all

theorem execRdRtc_next : execRdRtc n addr s = .next t ↔
    readTarget s.cfg addr = .rtc ∧ Fits addr.toNat n.bytes ∧
      t = s.afterSnapshot.respondData (dataAt s.afterSnapshot addr n) := by
  unfold execRdRtc
  split
  · split <;> simp_all [eq_comm]
  · simp_all

theorem execRdMem_next : execRdMem n addr s = .next t ↔
    readTarget s.cfg addr = .mem ∧ Fits addr.toNat n.bytes ∧ t = s.respondData (dataAt s addr n) := by
  unfold execRdMem
  split
  · rename_i h
    simp [readMemory_next, h]
  · simp_all

theorem execWrPend_next : execWrPend n addr v s = .next t ↔
    writeTarget s.cfg addr = .pend ∧
      t = (s.clearPending (pendIndex s.cfg addr) (lowByte v)).respondHandled true := by
  unfold execWrPend
  split <;> simp_all [eq_comm]

theorem execWrMask_next : execWrMask n addr v s = .next t ↔
    writeTarget s.cfg addr = .mask ∧
      t = (s.setMaskByte (maskIndex s.cfg addr) (lowByte v)).respondHandled true := by
  unfold execWrMask
  split <;> simp_all [eq_comm]

theorem execWrTmr_next : execWrTmr n addr v s = .next t ↔
    writeTarget s.cfg addr = .tmr ∧
      t = (s.setTimer (s.timer.set (timerIndex s.cfg addr)
        (trunc s.cfg.timerWidth (trunc (8 * n.bytes) v.toNat)))).respondHandled true := by
  unfold execWrTmr
  split <;> simp_all [eq_comm]

theorem execWrUnh_next : execWrUnh n addr v s = .next t ↔
    writeTarget s.cfg addr = .unh ∧ Fits addr.toNat n.bytes ∧
      t = (s.setMem (memWrite s.cfg.byteOrder s.mem addr.toNat n.bytes v.toNat)).respondHandled false := by
  unfold execWrUnh
  split
  · split <;> simp_all [eq_comm]
  · simp_all

theorem execAdv_next {cycles frames : Word} : execAdv cycles frames s = .next t ↔
    t = (s.setTimer (Five.ofFn (advancedTimer s cycles frames))).respondNone := by
  simp [execAdv, eq_comm]

theorem execKey_next {code : Word} {down : Bool} : execKey code down s = .next t ↔
    (takenKey s.cfg code = none ∧ t = s.respondNone) ∨
      ∃ idx, takenKey s.cfg code = some idx ∧ t = takeKey idx down s := by
  unfold execKey
  cases h : takenKey s.cfg code <;> simp [eq_comm]

/-- ACK answers always, and only its response differs from the state before. -/
theorem execAck_next {level : Word} (h : execAck level s = .next t) :
    t = s.respondSentinel ∨ ∃ r b, r < s.cfg.ngroups ∧ t = s.respondVector (vectorNumber s.cfg r (lsb b)) := by
  unfold execAck at h
  dsimp only at h
  split at h
  · exact .inl (by simpa [eq_comm] using h)
  · rename_i hr
    split at h
    · exact .inl (by simpa [eq_comm] using h)
    · refine .inr ⟨(s.cfg.regIndexOfLevel level.toNat).toNat,
        scannedByte s (s.cfg.regIndexOfLevel level.toNat).toNat, by omega, ?_⟩
      simpa [eq_comm] using h

theorem execPoll_next : execPoll s = .next t ↔ t = s.respondLevel (highestPending s) := by
  simp [execPoll, eq_comm]

theorem execRaise_next {r : Word} {b : BitVec 3} : execRaise r b s = .next t ↔
    r.toNat < s.cfg.ngroups ∧ t = (s.setPending r.toNat b.toNat).respondNone := by
  unfold execRaise
  split <;> simp_all [eq_comm]

theorem execReset_next : execReset s = .next t ↔
    t = ((((s.setPend (List.replicate s.cfg.ngroups 0x00)).setMask (List.replicate s.cfg.ngroups 0x00)).setTimer
      (Five.ofFn fun _ => 0)).setKbd 0x00).respondNone := by
  simp [execReset, eq_comm]

end

/-- The lowest set bit of a byte that is not zero is one of its eight bits, is set, and is the lowest. -/
theorem lsb_spec {m : Byte} (h : m ≠ 0) :
    lsb m < 8 ∧ m.getLsbD (lsb m) = true ∧ ∀ k < lsb m, m.getLsbD k = false := by
  revert h
  revert m
  decide

/-- A snapshot keeps the canonical form of memory. -/
theorem snapshot_wf {c : Config} (hc : c.accepted = true) (t : WallClock) {m : Memory} (h : m.wf = true) :
    (snapshot c t m).wf = true := by
  have key : ∀ (fs : List RtcField) (m : Memory), m.wf = true →
      (fs.foldl (fun m f => writeByte m (c.rtcOff.get f) (bcd (rtcValue c t f))) m).wf = true := by
    intro fs
    induction fs with
    | nil => exact fun _ h => h
    | cons f fs ih => exact fun m h => ih _ (writeByte_wf h (Config.rtcOff_lt hc f) _)
  exact key _ m h

end Sys2Proof.Machine
end

