-- ==== Sys2Proof/Laws/PerInstr.lean ====
section
/-! SUPPORT. Statements about every instruction as syntax, one lemma for each constructor of Instr. RowFields: the
frame the encoder gives an instruction has the opcode of its table row, a zero RSV, and SZ zero unless it is an RD
or WR (spec/30_encoding.md R60, R61, R64). -/

namespace Sys2Proof.Laws.RowFields

open Sys2Proof

/-- The opcode of an instruction's row (R61). -/
def opcode : Instr → BitVec 8
  | .rdPend _ _ => 0x01
  | .rdMask _ _ => 0x01
  | .rdKbd _ _ => 0x01
  | .rdTmr _ _ => 0x01
  | .rdTmrna _ _ => 0x01
  | .rdRtc _ _ => 0x01
  | .rdMem _ _ => 0x01
  | .wrPend _ _ _ => 0x02
  | .wrMask _ _ _ => 0x02
  | .wrTmr _ _ _ => 0x02
  | .wrUnh _ _ _ => 0x02
  | .adv _ _ => 0x03
  | .key _ _ => 0x04
  | .ack _ => 0x05
  | .poll => 0x06
  | .raise _ _ => 0x07
  | .reset => 0x08

/-- The encoded frame has the row's OP, a zero RSV, and a zero SZ where the opcode is neither RD's nor WR's. -/
def Statement (i : Instr) : Prop :=
  (encode i).op = opcode i ∧ (encode i).rsv = 0 ∧ (opcode i ≠ 0x01 → opcode i ≠ 0x02 → (encode i).sz = 0)

theorem rdPend (n : Size) (a : Word) : Statement (.rdPend n a) := by
  simp [Statement, encode, Instr.command, Command.frame, opcode]

theorem rdMask (n : Size) (a : Word) : Statement (.rdMask n a) := by
  simp [Statement, encode, Instr.command, Command.frame, opcode]

theorem rdKbd (n : Size) (a : Word) : Statement (.rdKbd n a) := by
  simp [Statement, encode, Instr.command, Command.frame, opcode]

theorem rdTmr (n : Size) (a : Word) : Statement (.rdTmr n a) := by
  simp [Statement, encode, Instr.command, Command.frame, opcode]

theorem rdTmrna (n : Size) (a : Word) : Statement (.rdTmrna n a) := by
  simp [Statement, encode, Instr.command, Command.frame, opcode]

theorem rdRtc (n : Size) (a : Word) : Statement (.rdRtc n a) := by
  simp [Statement, encode, Instr.command, Command.frame, opcode]

theorem rdMem (n : Size) (a : Word) : Statement (.rdMem n a) := by
  simp [Statement, encode, Instr.command, Command.frame, opcode]

theorem wrPend (n : Size) (a v : Word) : Statement (.wrPend n a v) := by
  simp [Statement, encode, Instr.command, Command.frame, opcode]

theorem wrMask (n : Size) (a v : Word) : Statement (.wrMask n a v) := by
  simp [Statement, encode, Instr.command, Command.frame, opcode]

theorem wrTmr (n : Size) (a v : Word) : Statement (.wrTmr n a v) := by
  simp [Statement, encode, Instr.command, Command.frame, opcode]

theorem wrUnh (n : Size) (a v : Word) : Statement (.wrUnh n a v) := by
  simp [Statement, encode, Instr.command, Command.frame, opcode]

theorem adv (cycles frames : Word) : Statement (.adv cycles frames) := by
  simp [Statement, encode, Instr.command, Command.frame, opcode]

theorem key (code : Word) (down : Bool) : Statement (.key code down) := by
  simp [Statement, encode, Instr.command, Command.frame, opcode]

theorem ack (level : Word) : Statement (.ack level) := by
  simp [Statement, encode, Instr.command, Command.frame, opcode]

theorem poll : Statement .poll := by
  simp [Statement, encode, Instr.command, Command.frame, opcode]

theorem raise (r : Word) (b : BitVec 3) : Statement (.raise r b) := by
  simp [Statement, encode, Instr.command, Command.frame, opcode]

theorem reset : Statement .reset := by
  simp [Statement, encode, Instr.command, Command.frame, opcode]

end Sys2Proof.Laws.RowFields
end

