-- ==== Sys2Proof/Tests/Slice0.lean ====
section
/-! SUPPORT. The model's own tests. The expected results are those of spec/95_test_vectors.md (its row is named), the
examples of the rules, or hand calculation from a rule; REFMAP throughout. -/

namespace Sys2Proof.Tests

open Sys2Proof Sys2Proof.Machine

/-- The next state an outcome holds. -/
def nextOf : Host.Outcome State Fault Refusal → Option State
  | .next t => some t
  | .fault _ => none
  | .refused _ => none

/-- The refusal an outcome holds. -/
def refusalOf : Host.Outcome State Fault Refusal → Option Refusal
  | .next _ => none
  | .fault _ => none
  | .refused x => some x

/-- The state after frame f is performed in state s. -/
def after (s : State) (f : Frame) : Option State := nextOf (step (s.offer f))

/-- What the decoder reads from a frame under REFMAP. -/
def dec (f : Frame) : Option Instr := decodeTableWord 96 f.toNat

/-- Wednesday 2026-11-11 16:08:35 (R150's example). -/
def nov11 : WallClock :=
  { sec := 35, min := 8, hour := 16, mdayPred := 10, wday := .wednesday, mon := .november, year := 2026 }

/-- Thursday 2099-12-31 23:59:59 (vector R4). -/
def dec31 : WallClock :=
  { sec := 59, min := 59, hour := 23, mdayPred := 30, wday := .thursday, mon := .december, year := 2099 }

/-- A word of M written big-endian at address a, for the states of the tests. -/
def poke (m : Memory) (a v : Nat) : Memory := memWrite .big m a 4 v

/-- A reset state with control words CTRL0 and CTRL1 in M. -/
def ctrl (c0 c1 : Nat) : State := State.reset.setMem (poke (poke [] 0x400 c0) 0x404 c1)

/-- A reset state with pend and mask. -/
def icr (p m : List Byte) : State := (State.reset.setPend p).setMask m

/-! Decoding: one frame of each row, its bits written out from R60 to R64. -/

theorem test_decode_rdPend : dec 0x010000000000010300000000 = some (.rdPend .b 0x103) := by decide
theorem test_decode_rdMask : dec 0x018000000000011000000000 = some (.rdMask .l 0x110) := by decide
theorem test_decode_rdKbd : dec 0x014000000000020000000000 = some (.rdKbd .w 0x200) := by decide
theorem test_decode_rdTmr : dec 0x018000000000032000000000 = some (.rdTmr .l 0x320) := by decide
theorem test_decode_rdTmrna : dec 0x010000000000032700000000 = some (.rdTmrna .b 0x327) := by decide
theorem test_decode_rdRtc : dec 0x010000000000050F00000000 = some (.rdRtc .b 0x50F) := by decide
theorem test_decode_rdMem : dec 0x010000000000032800000000 = some (.rdMem .b 0x328) := by decide
theorem test_decode_wrPend : dec 0x024000000000010000000F05 = some (.wrPend .w 0x100 0xF05) := by decide
theorem test_decode_wrMask : dec 0x020000000000011300000001 = some (.wrMask .b 0x113 1) := by decide
theorem test_decode_wrTmr : dec 0x02800000000003088FFFFFF0 = some (.wrTmr .l 0x308 0x8FFFFFF0) := by decide
theorem test_decode_wrUnh : dec 0x020000000000020000000055 = some (.wrUnh .b 0x200 0x55) := by decide
theorem test_decode_adv : dec 0x030000008000000100000002 = some (.adv 0x80000001 2) := by decide
theorem test_decode_key : dec 0x040000000000002900000001 = some (.key 41 true) := by decide
theorem test_decode_ack : dec 0x050000000000000300000000 = some (.ack 3) := by decide
theorem test_decode_poll : dec 0x060000000000000000000000 = some .poll := by decide
theorem test_decode_raise : dec 0x070000000000000300000005 = some (.raise 3 5) := by decide
theorem test_decode_reset : dec 0x080000000000000000000000 = some .reset := by decide

/-- Each kind of illegal frame of R66, by name (C2 to C5, W13, K11, A16 among them). -/
theorem test_decode_illegal :
    decode Config.refmap 0x000000000000000000000000 = .error .reservedOpcode ∧
    decode Config.refmap 0x090000000000000000000000 = .error .reservedOpcode ∧
    decode Config.refmap 0xFF0000000000000000000000 = .error .reservedOpcode ∧
    decode Config.refmap 0x01C000000000010000000000 = .error .reservedSize ∧
    decode Config.refmap 0x02C000000000010000000000 = .error .reservedSize ∧
    decode Config.refmap 0x064000000000000000000000 = .error .sizeNotZero ∧
    decode Config.refmap 0x010000010000010000000000 = .error .reservedField ∧
    decode Config.refmap 0x010000000000010000000001 = .error .operandNotZero ∧
    decode Config.refmap 0x020000000000010000000100 = .error .operandNotZero ∧
    decode Config.refmap 0x024000000000010000010000 = .error .operandNotZero ∧
    decode Config.refmap 0x040000000000002900000002 = .error .operandNotZero ∧
    decode Config.refmap 0x050000000000000300000001 = .error .operandNotZero ∧
    decode Config.refmap 0x060000000000000100000000 = .error .operandNotZero ∧
    decode Config.refmap 0x080000000000000000000001 = .error .operandNotZero ∧
    decode Config.refmap 0x070000000000000300000008 = .error .operandNotZero ∧
    decode Config.refmap 0x070000000000000400000000 = .error .groupOutOfRange := by decide

/-! Well-formedness: an ill-formed term for each check. -/

theorem test_refmap_accepted : Config.refmap.accepted = true := by decide
theorem test_illFormed_ngroups : ({ Config.refmap with ngroups := 3 } : Config).accepted = false := by decide
theorem test_illFormed_groupIndex :
    ({ Config.refmap with groupIndex := { dispB := 0, dispA := 0, superIO := 2, timer := 3 } } : Config).accepted
      = false := by decide
theorem test_illFormed_level : ({ Config.refmap with noneLevel := 4 } : Config).accepted = false := by decide
theorem test_illFormed_regIndex : ({ Config.refmap with regIndexOffset := 0 } : Config).accepted = false := by decide
theorem test_illFormed_windows : ({ Config.refmap with kbdAddr := 0x327 } : Config).accepted = false := by decide
theorem test_illFormed_rtcOff :
    ({ Config.refmap with rtcOff := { Config.refmap.rtcOff with year := 0x200 } } : Config).accepted = false := by
  decide
theorem test_illFormed_ctrl : ({ Config.refmap with ctrlAddr1 := 0x0FD } : Config).accepted = false := by decide
theorem test_illFormed_timerBase : ({ Config.refmap with timerBase := 0x304 } : Config).accepted = false := by decide
theorem test_illFormed_timerWidth : ({ Config.refmap with timerWidth := 0 } : Config).accepted = false := by decide
theorem test_illFormed_enable :
    ({ Config.refmap with timers := { Config.refmap.timers with
      t0 := { kind := .cycle, enWord := 1, enBit := 16, writable := true } } } : Config).accepted = false := by decide
theorem test_illFormed_enBit :
    ({ Config.refmap with timers := { Config.refmap.timers with
      t0 := { kind := .cycle, enWord := 0, enBit := 32, writable := true } } } : Config).accepted = false := by decide
theorem test_illFormed_scanTable :
    ({ Config.refmap with scanTable := none :: Config.refScanTable } : Config).accepted = false := by decide
theorem test_illFormed_kbdIrqBit : ({ Config.refmap with kbdIrqBit := 8 } : Config).accepted = false := by decide
theorem test_illFormed_addresses : ({ Config.refmap with rtcSize := 2 ^ 32 } : Config).accepted = false := by decide
theorem test_illFormed_tables : ({ Config.refmap with monEnc := [1] } : Config).accepted = false := by decide

/-- A row whose address lies outside its window, or whose operand is out of range, is ill-formed (R63, R80, R88). -/
theorem test_illFormed_instructions :
    ∀ i ∈ ([.rdPend .b 0x104, .rdMask .b 0x10F, .rdKbd .b 0x201, .rdTmr .b 0x328, .rdTmr .b 0x301, .rdTmrna .b 0x308,
      .rdRtc .b 0x510, .rdMem .b 0x200, .wrPend .b 0xFF 0, .wrPend .b 0x100 0x100, .wrMask .w 0x110 0x10000,
      .wrMask .b 0x114 0, .wrTmr .l 0x304 0, .wrUnh .b 0x300 0, .wrUnh .b 0x500 0x100, .raise 4 0] : List Instr),
      i.wellFormed Config.refmap = false := by decide

/-! Reads (vectors V). -/

theorem test_rdPend_one_byte :  -- V2
    (after (icr [0x5A, 0x11, 0, 0] [0, 0, 0, 0]) 0x018000000000010000000000).map (·.resp.rdata) = some 0x5A := by
  decide
theorem test_rdPend_masked_visible :  -- V3
    (after (icr [0, 8, 0, 0] [0, 8, 0, 0]) 0x010000000000010100000000).map (·.resp.rdata) = some 8 := by decide
theorem test_rdMask :  -- R82's example
    (after (icr [0, 0, 0, 0] [0, 0, 0xF0, 0]) 0x018000000000011200000000).map (·.resp.rdata) = some 0xF0 := by decide
theorem test_rdKbd :  -- V5
    (after (State.reset.setKbd 0x81) 0x010000000000020000000000).map (fun t => (t.resp.rdata, t.kbd))
      = some (0x81, 0) := by decide
theorem test_rdTmr_word :  -- V9
    (after (State.reset.setTimer { t0 := 0, t1 := 0, t2 := 0, t3 := 0, t4 := 0x12345 }) 0x014000000000032000000000).map
      (·.resp.rdata) = some 0x2345 := by decide
theorem test_rdTmrna_reads_memory :  -- V11
    (after ((State.reset.setMem [(0x301, 0xAB)]).setTimer { t0 := 7, t1 := 0, t2 := 0, t3 := 0, t4 := 0 })
      0x010000000000030100000000).map (·.resp.rdata) = some 0xAB := by decide
theorem test_rdMem_big :  -- V13
    (after (ctrl 0 0x10000) 0x018000000000040400000000).map (·.resp.rdata) = some 0x10000 := by decide
theorem test_rdMem_past_top :  -- V16
    refusalOf (step (State.reset.offer 0x01400000FFFFFFFF00000000)) = some .pastTop := by decide
theorem test_rdRtc_fields :  -- R2
    (after { State.reset with clock := [nov11] } 0x018000000000050000000000).map
      (fun t => (t.resp.rdata, readBytes t.mem 0x500 7, t.clock))
      = some (0x35081611, [0x35, 0x08, 0x16, 0x11, 0x03, 0x11, 0x26], []) := by decide
theorem test_rdRtc_other_byte :  -- R4
    (after { State.reset with clock := [dec31] } 0x010000000000050F00000000).map
      (fun t => (t.resp.rdata, readBytes t.mem 0x500 7))
      = some (0, [0x59, 0x59, 0x23, 0x31, 0x04, 0x12, 0x99]) := by decide

/-! Writes (vectors W). -/

theorem test_wrPend_one_group :  -- W4
    (after (icr [0xFF, 0xFF, 0, 0] [0, 0, 0, 0]) 0x024000000000010000000F05).map (fun t => (t.pend, t.resp.handled))
      = some ([0xFA, 0xFF, 0, 0], true) := by decide
theorem test_wrPend_cannot_set :  -- W3
    (after (icr [0x0F, 0, 0, 0] [0, 0, 0, 0]) 0x0200000000000100000000F0).map (·.pend) = some [0x0F, 0, 0, 0] := by
  decide
theorem test_wrMask_replaces :  -- W6
    (after (icr [0, 0, 0, 0] [0, 0, 0x0F, 0]) 0x0200000000000112000000F0).map (·.mask) = some [0, 0, 0xF0, 0] := by
  decide
theorem test_wrTmr_replaces_all :  -- W7
    (after (State.reset.setTimer { t0 := 0x12345678, t1 := 1, t2 := 0, t3 := 0, t4 := 0 })
      0x02000000000003000000009A).map (·.timer) = some { t0 := 0x9A, t1 := 1, t2 := 0, t3 := 0, t4 := 0 } := by decide
theorem test_wrUnh_keyboard_address :  -- W10
    (after (State.reset.setKbd 2) 0x020000000000020000000055).map (fun t => (t.kbd, readByte t.mem 0x200, t.resp.handled))
      = some (2, 0x55, false) := by decide
theorem test_wrUnh_big :  -- W11
    (after State.reset 0x028000000000040000000005).map (fun t => readBytes t.mem 0x400 4) = some [0, 0, 0, 5] := by
  decide

/-! Arbiter (vectors A). -/

theorem test_poll_skips_masked :  -- A3
    (after (icr [0, 8, 1, 0xFF] [0, 8, 0, 0]) 0x060000000000000000000000).map (·.resp.level) = some 3 := by decide
theorem test_poll_bitwise_mask :  -- A5
    (after (icr [1, 1, 0, 0] [0xFF, 0xFE, 0, 0]) 0x060000000000000000000000).map (·.resp.level) = some 2 := by decide
theorem test_ack_lowest_mask_bit :  -- A7
    (after (icr [0, 0, 1, 0] [0, 0, 0x0C, 0]) 0x050000000000000300000000).map (fun t => (t.resp.vector, t.resp.diags))
      = some (82, []) := by decide
theorem test_ack_out_of_range :  -- A12
    (after State.reset 0x050000000000000500000000).map (fun t => (t.resp.vector, t.resp.diags))
      = some (0xFFFFFFFF, [.event]) := by decide
theorem test_raise :  -- A15
    (after State.reset 0x070000000000000100000003).map (fun t => (t.pend, irqLevel t)) = some ([0, 8, 0, 0], 2) := by
  decide

/-! Timers, keyboard, reset (vectors T, K, C). -/

theorem test_adv_enables :  -- T1
    (after (ctrl 5 0x10000) 0x030000000000006400000002).map (·.timer)
      = some { t0 := 100, t1 := 0, t2 := 2, t3 := 100, t4 := 2 } := by decide
theorem test_adv_wraps :  -- T6
    (after ((ctrl 1 0).setTimer { t0 := 0xFFFFFFF0, t1 := 0, t2 := 0, t3 := 0, t4 := 0 })
      0x03000000FFFFFFFF00000000).map (·.timer.t0) = some 0xFFFFFFEF := by decide
theorem test_key_first_match :  -- K3
    (after State.reset 0x040000000000001E00000001).map (·.kbd) = some 2 := by decide
theorem test_key_release_keeps_other_bits :  -- K10
    (after (icr [0, 0, 0x80, 0] [0, 0, 1, 0]) 0x040000000000001F00000000).map (fun t => (t.kbd, t.pend, t.resp.signals))
      = some (0x83, [0, 0, 0x81, 0], [3]) := by decide
theorem test_reset_keeps_memory :  -- C1
    (after (((icr [0, 0, 1, 0] [0xFF, 0, 0, 0]).setMem [(0x403, 1)]).setKbd 0x81) 0x080000000000000000000000).map
      (fun t => (t.pend, t.mask, t.kbd, t.mem)) = some ([0, 0, 0, 0], [0, 0, 0, 0], 0, [(0x403, 1)]) := by decide

/-- P4: a refused frame marks the run and changes no state of it. -/
theorem test_run_refused :
    ((Run.start Config.refmap).feedAll [0x080000000000000000000000, 0x0A0000000000000000000000]).mark
      = some (.illegalFrame .reservedOpcode) ∧
    ((Run.start Config.refmap).feed 0x0A0000000000000000000000).state = State.reset := by decide

/-- Texts of P1 to P3 with their frames. -/
theorem test_assembler :
    (assembleLine Config.refmap "SETMASK DISPA, 0x08 ; mask DISPA").map Command.frame = some 0x020000000000011100000008 ∧
    (assembleLine Config.refmap "WRTMR 1, 0xFFFFFFF0").map Command.frame = some 0x0280000000000308FFFFFFF0 ∧
    (assembleLine Config.refmap "RD.B ICR_PEND_BASE+2").map Command.frame = some 0x010000000000010200000000 ∧
    (assembleLine Config.refmap "RDRTC YEAR").map Command.frame = some 0x010000000000050600000000 ∧
    assembleLine Config.refmap "RD.X 0x100" = none := by decide

/-- The last address that fits the operand and the first that does not (log entry 17). -/
theorem test_assembler_address_fits :
    (assembleLine Config.refmap "RDPEND 0xFFFFFEFF").map Command.frame = some 0x01000000FFFFFFFF00000000 ∧
    assembleLine Config.refmap "RDPEND 0xFFFFFF00" = none ∧ assembleLine Config.refmap "RDTMR 0x20000000" = none := by
  decide

/-! Witnesses: for each statement with hypotheses, a state and operands that meet all of them. -/

/-- The outcome is a next state. -/
def completes (o : Host.Outcome State Fault Refusal) : Bool := (nextOf o).isSome

/-- A state with every kind of content: a command word enabling counter 0, an unread key, a masked line. -/
def busy : State :=
  { icr [0, 8, 1, 0xFF] [0, 8, 2, 0] with
    timer := { t0 := 0xFFFFFFFF, t1 := 1, t2 := 2, t3 := 3, t4 := 4 }, kbd := 0x81, mem := poke [] 0x400 1,
    clock := [nov11] }

theorem busy_wf : busy.wf := by
  unfold State.wf
  decide

theorem witness_DecodeOfEncode : Config.refmap.accepted = true ∧
    (Instr.rdPend .l 0x103).wellFormed Config.refmap = true ∧ (Instr.rdMem .b 0xFFFFFFFF).wellFormed Config.refmap = true ∧
    (Instr.wrTmr .l 0x320 0xFFFFFFFF).wellFormed Config.refmap = true ∧
    (Instr.raise 3 7).wellFormed Config.refmap = true := by decide

theorem witness_EncodeOfDecode_DecodedIsWellFormed :
    decode Config.refmap 0x070000000000000300000007 = .ok (.raise 3 7) ∧
    decode Config.refmap 0x0200000000000327000000FF = .ok (.wrUnh .b 0x327 0xFF) := by decide

/-- A configuration with a counter that is not writable and an RTC byte outside the RTC window. -/
def otherRows : Config :=
  { Config.refmap with
    timers := { Config.refmap.timers with t0 := { kind := .cycle, enWord := 0, enBit := 0, writable := false } }
    rtcOff := { Config.refmap.rtcOff with year := 0x600 } }

theorem witness_PseudoInstructionsSelectRows : Config.refmap.accepted = true ∧ 3 < Config.refmap.ngroups ∧
    (0xFF : Word).toNat < 2 ^ 8 ∧ (Config.refmap.timers.get 4).writable = true ∧ Config.refmap.rtcOff.get .year = 0x506 ∧
    Config.refmap.rtcWindow.Has (Config.refmap.rtcOff.get .year) ∧ otherRows.accepted = true ∧
    (otherRows.timers.get 0).writable = false ∧ ¬ otherRows.rtcWindow.Has (otherRows.rtcOff.get .year) := by decide

theorem witness_StepRunsDecoded_LegalFrameCompletes :
    let s := busy.offer 0x010000000000020000000000
    s.cfg.accepted = true ∧ s.queue = [0x010000000000020000000000] ∧
      decode s.cfg 0x010000000000020000000000 = .ok (.rdKbd .b 0x200) ∧
      memoryAccess (.rdKbd .b 0x200) = none ∧ completes (step s) = true := by decide

/-- An instruction of each clause: one that completes, one that is refused. -/
theorem witness_InstructionsNeverTrap : busy.cfg.accepted = true ∧ (Instr.rdKbd .b 0x200).wellFormed busy.cfg = true ∧
    completes (exec (.rdKbd .b 0x200) busy) = true ∧ (Instr.rdMem .w 0xFFFFFFFF).wellFormed busy.cfg = true ∧
    refusalOf (exec (.rdMem .w 0xFFFFFFFF) busy) = some .pastTop := by decide

/-- The last byte of memory fits; the word from it does not. -/
theorem witness_RunsPastTop : RunsPastTop (.rdMem .w 0xFFFFFFFF) ∧ ¬ RunsPastTop (.rdMem .b 0xFFFFFFFF) := by
  constructor
  · exact ⟨0xFFFFFFFF, .w, rfl, by decide⟩
  · rintro ⟨addr, n, h, hf⟩
    cases h
    exact hf (by decide)

theorem witness_PastTopIsRefused : Config.refmap.accepted = true ∧
    (Instr.rdMem .w 0xFFFFFFFF).wellFormed Config.refmap = true ∧
    (Instr.wrUnh .l 0xFFFFFFFD 0).wellFormed Config.refmap = true ∧
    refusalOf (exec (.wrUnh .l 0xFFFFFFFD 0) State.reset) = some .pastTop ∧
    completes (exec (.wrUnh .l 0xFFFFFFFC 0) State.reset) = true := by decide

theorem witness_IdleHoldsAllState : busy.cfg.accepted = true ∧ busy.queue = [] := by decide

/-- A state whose configuration has three groups. -/
def threeGroups : State := { State.reset with cfg := { Config.refmap with ngroups := 3 } }

theorem witness_BadConfigurationRefused_StepRefusesExactly : threeGroups.cfg.accepted = false ∧
    refusalOf (step threeGroups) = some .configuration ∧
    refusalOf (step (busy.offer 0)) = some (.illegalFrame .reservedOpcode) ∧
    refusalOf (step (busy.offer 0x02800000FFFFFFFD00000000)) = some .pastTop := by decide

theorem witness_SpecialWindowsDisjoint : Config.refmap.accepted = true ∧ Config.refmap.windows.length = 5 ∧
    Config.refmap.timerWindow.Has 0x300 ∧ Config.refmap.timerWindow.Has 0x327 := by decide

theorem witness_RefusalMarkIsKept : step (State.reset.offer 0) = .refused (.illegalFrame .reservedOpcode) ∧
    ((Run.start Config.refmap).feed 0).mark = some (.illegalFrame .reservedOpcode) := by
  constructor
  · rfl
  · decide

theorem witness_StepKeepsInvariant : busy.wf ∧ completes (step busy) = true := ⟨busy_wf, by decide⟩

theorem witness_ResetMeetsInvariant : Config.refmap.accepted = true := by decide

theorem witness_RdPend_WrPend : 0 < busy.cfg.ngroups ∧ (0x100 : Word).toNat = busy.cfg.icrPendBase + 0 ∧
    3 < busy.cfg.ngroups ∧ (0x103 : Word).toNat = busy.cfg.icrPendBase + 3 := by decide

theorem witness_RdMask_WrMask : busy.cfg.accepted = true ∧ 3 < busy.cfg.ngroups ∧
    (0x113 : Word).toNat = busy.cfg.icrMaskBase + 3 := by decide

theorem witness_RdKbdReadsAndClears : busy.cfg.accepted = true ∧ (0x200 : Word).toNat = busy.cfg.kbdAddr := by decide

theorem witness_RdTmr_WrTmr : busy.cfg.accepted = true ∧
    (0x320 : Word).toNat = busy.cfg.timerBase + 8 * (4 : Fin 5).val ∧ (busy.cfg.timers.get 4).writable = true ∧
    (0xFF : Word).toNat < 2 ^ (8 * Size.b.bytes) := by decide

theorem witness_PlainReadsReturnMemory : busy.cfg.accepted = true ∧
    (Instr.rdTmrna .l 0x327).wellFormed busy.cfg = true ∧ (Instr.rdMem .b 0xFFFFFFFF).wellFormed busy.cfg = true ∧
    (0xFFFFFFFF : Word).toNat + Size.b.bytes ≤ 2 ^ 32 := by decide

theorem witness_RdRtcSnapshots : busy.cfg.accepted = true ∧ busy.mem.wf = true ∧
    busy.cfg.rtcBase ≤ (0x50F : Word).toNat ∧ (0x50F : Word).toNat < busy.cfg.rtcBase + busy.cfg.rtcSize ∧
    (0x50F : Word).toNat + Size.l.bytes ≤ 2 ^ 32 ∧ busy.clock = nov11 :: [] ∧ busy.cfg.hourMode = .h24 := by decide

theorem witness_RtcBytesAreBcd_MemoryWritesFrame : busy.cfg.accepted = true ∧ busy.mem.wf = true ∧
    completes (exec (.rdRtc .b 0x506) busy) = true ∧ completes (exec (.wrUnh .w 0x4FF 0xFFFF) busy) = true := by decide

theorem witness_BcdDigits : (99 : Nat) ≤ 99 ∧ (0 : Nat) ≤ 99 := by decide

theorem witness_WrUnhStoresToMemory : busy.cfg.accepted = true ∧ busy.mem.wf = true ∧
    (Instr.wrUnh .l 0xFFFFFFFC 0x01020304).wellFormed busy.cfg = true ∧
    (0xFFFFFFFC : Word).toNat + Size.l.bytes ≤ 2 ^ 32 := by decide

theorem witness_MemReadAfterMemWrite : busy.mem.wf = true ∧ 0xFFFFFFFC + 4 ≤ 2 ^ 32 := by decide

theorem witness_HandledExactly_WritesAreIdempotent_RegisterWritesFrame : busy.mem.wf = true ∧
    completes (exec (.wrPend .b 0x101 8) busy) = true ∧ completes (exec (.wrMask .b 0x113 1) busy) = true ∧
    completes (exec (.wrTmr .w 0x308 9) busy) = true ∧ completes (exec (.wrUnh .b 0x307 9) busy) = true ∧
    completes (exec (.raise 3 7) busy) = true ∧ completes (exec (.adv 1 1) busy) = true ∧
    completes (exec .reset busy) = true := by decide

/-- An ADV, a store to a control word, a write to another counter, an ADV: counter 0 gains at both ADVs. -/
theorem witness_CounterAccumulates :
    busy.timer.get 0 < 2 ^ busy.cfg.timerWidth ∧
    completes (execAll [.adv 1 0, .wrUnh .l 0x400 3, .wrTmr .b 0x308 7, .adv 5 0] busy) = true ∧
    gained 0 [.adv 1 0, .wrUnh .l 0x400 3, .wrTmr .b 0x308 7, .adv 5 0] busy = 6 ∧
    timerIndex busy.cfg 0x308 ≠ 0 := by decide

theorem witness_CtrlStoreDecidesNextAdv : busy.cfg.accepted = true ∧ busy.mem.wf = true ∧
    (busy.cfg.timers.get 4).enWord = 1 ∧ (busy.cfg.timers.get 0).enWord = 0 := by decide

theorem witness_SharedEnableAdvancesTogether : busy.cfg.accepted = true ∧ (busy.cfg.timers.get 3).enBit = 16 ∧
    (busy.cfg.timers.get 4).enBit = 16 ∧
    (nextOf (exec (.adv 100 2) (ctrl 0 0x10000))).map (fun t => (t.timer.t3, t.timer.t4)) = some (100, 2) ∧
    (nextOf (exec (.adv 100 2) (ctrl 0 0))).map (fun t => (t.timer.t3, t.timer.t4)) = some (0, 0) := by decide

/-- The largest index of the table (K4), and a code listed twice (K3). -/
theorem witness_KeyTaken : busy.cfg.accepted = true ∧ busy.cfg.debugKey 100 = false ∧
    scanLookup busy.cfg 100 = some 127 ∧ busy.cfg.scanTable[127]? = some (some 100) ∧
    busy.cfg.debugKey 30 = false ∧ busy.cfg.scanTable[2]? = some (some 30) ∧
    (∀ j ∈ [0, 1], busy.cfg.scanTable[j]? ≠ some (some 30)) ∧ busy.cfg.scanTable[5]? = some (some 30) := by decide

theorem witness_KeyIgnored : busy.cfg.debugKey 58 = true ∧ busy.cfg.debugKey 69 = true ∧
    ∀ j : Nat, busy.cfg.scanTable[j]? ≠ some (some 99) := by
  refine ⟨by decide, by decide, fun j h => ?_⟩
  have hn : busy.cfg.scanTable.contains (some 99) = false := by decide
  have hy := List.contains_iff_mem.mpr (List.mem_of_getElem? h)
  rw [hn] at hy
  cases hy

theorem witness_SecondKeyHidesFirst : busy.cfg.accepted = true ∧ (0x200 : Word).toNat = busy.cfg.kbdAddr ∧
    ((nextOf (exec (.key 41 true) busy)).bind fun t => nextOf (exec (.key 31 true) t)).map
      (fun u => (u.resp.signals, u.kbd)) = some ([3], 3) := by decide

/-- One state for each clause of the arbiter's order. -/
theorem witness_PollReportsHighest_LevelNamesActiveGroup :
    irqLevel (icr [1, 1, 1, 1] [0, 0, 0, 0]) = 1 ∧ irqLevel (icr [1, 1, 1, 1] [1, 0, 0, 0]) = 2 ∧
    irqLevel (icr [1, 1, 1, 1] [1, 1, 0, 0]) = 3 ∧ irqLevel (icr [1, 1, 1, 1] [1, 1, 1, 0]) = 4 ∧
    irqLevel (icr [1, 1, 1, 1] [1, 1, 1, 1]) = 0 ∧ busy.cfg.accepted = true := by decide

theorem witness_IrqLevelOfPendAndMask : busy.cfg = (busy.setKbd 0).cfg ∧ busy.pend = (busy.setKbd 0).pend ∧
    busy.mask = (busy.setKbd 0).mask ∧ busy ≠ busy.setKbd 0 := by decide

theorem witness_MaskedRaiseIsSilent : (bankByte busy.mask (1 : Word).toNat).getLsbD (3 : BitVec 3).toNat = true ∧
    completes (exec (.raise 1 3) busy) = true := by decide

/-- Below the range, above it, and level values next to both ends. -/
theorem witness_AckOutOfRange : busy.cfg.regIndexOfLevel (0 : Word).toNat < 0 ∧
    (busy.cfg.ngroups : Int) ≤ busy.cfg.regIndexOfLevel (5 : Word).toNat ∧
    busy.cfg.regIndexOfLevel (1 : Word).toNat = 0 ∧ busy.cfg.regIndexOfLevel (4 : Word).toNat = 3 := by decide

theorem witness_AckNoBitSet : busy.cfg.regIndexOfLevel (4 : Word).toNat = 3 ∧ 3 < busy.cfg.ngroups ∧
    busy.cfg.vecScan = .mask ∧ bankByte busy.mask 3 = 0 := by decide

theorem witness_AckNamesVector : busy.cfg.accepted = true ∧ busy.cfg.regIndexOfLevel (2 : Word).toNat = 1 ∧
    1 < busy.cfg.ngroups ∧ busy.cfg.vecScan = .mask ∧ bankByte busy.mask 1 = 8 ∧ (8 : Byte).getLsbD 3 = true ∧
    (∀ k < 3, (8 : Byte).getLsbD k = false) ∧ completes (exec (.ack 2) busy) = true := by decide

theorem witness_RaiseSetsBit : (3 : Word).toNat < busy.cfg.ngroups ∧ busy.cfg.ngroups ≤ (4 : Word).toNat := by decide

theorem witness_RaisesCommute :
    (((nextOf (exec (.raise 1 3) busy)).bind fun t => nextOf (exec (.raise 3 0) t)).isSome &&
      ((nextOf (exec (.raise 3 0) busy)).bind fun t => nextOf (exec (.raise 1 3) t)).isSome) = true := by decide

theorem witness_QueriesChangeOnlyResponse :
    ∀ i ∈ ([.rdPend .b 0x100, .rdMask .b 0x110, .rdTmr .b 0x300, .rdTmrna .b 0x301, .rdMem .b 0, .ack 1, .poll] :
      List Instr), completes (exec i busy) = true := by decide

theorem witness_KeyboardCommandsFrame : completes (exec (.rdKbd .b 0x200) busy) = true ∧
    completes (exec (.key 41 false) busy) = true := by decide

/-- A bit that rises by RAISE, one by KEY, one that falls by WR.PEND, one by RESET. -/
theorem witness_PendingBitsRiseAndFall_EachPieceHasItsWriters :
    (nextOf (exec (.raise 0 7) busy)).map (·.pend) = some [0x80, 8, 1, 0xFF] ∧
    (nextOf (exec (.key 41 true) (busy.setPend [0, 8, 0, 0xFF]))).map (·.pend) = some [0, 8, 1, 0xFF] ∧
    (nextOf (exec (.wrPend .b 0x103 0x80) busy)).map (·.pend) = some [0, 8, 1, 0x7F] ∧
    (nextOf (exec .reset busy)).map (·.pend) = some [0, 0, 0, 0] := by decide

theorem witness_MemoryNeverReachesBanks :
    (nextOf (exec (.key 41 true) busy)).map (·.pend) = (nextOf (exec (.key 41 true) { busy with mem := [] })).map (·.pend) ∧
    busy.mem ≠ [] ∧ completes (exec (.key 41 true) busy) = true := by decide

end Sys2Proof.Tests
end

section
/-! PROOF. The scope of the block (spec/00_scope.md R5, R8): where the special windows and the control words of an
accepted configuration lie, and what one step does with the next frame. -/

namespace Sys2Proof

/-- R8: an address that two windows of an accepted configuration hold names one window. -/
theorem Config.window_index_unique {c : Config} (h : c.accepted = true) {i j a : Nat} (hi : i < c.windows.length)
    (hj : j < c.windows.length) (hia : (c.windows[i]).Has a) (hja : (c.windows[j]).Has a) : i = j := by
  have hdisj := List.pairwise_iff_getElem.mp (Config.windowsOk h)
  rcases Nat.lt_trichotomy i j with hlt | heq | hgt
  · exact absurd hja ((hdisj i j hi hj hlt).not_has hia)
  · exact heq
  · exact absurd hia ((hdisj j i hj hi hgt).not_has hja)

theorem Config.ctrlAddr_mem (c : Config) (k : Fin 2) : c.ctrlAddr k ∈ [c.ctrlAddr0, c.ctrlAddr1] := by
  fin_cases k <;> simp [Config.ctrlAddr]

/-- R8: the four bytes of a control word of an accepted configuration lie outside every special window. -/
theorem Config.ctrlByte_not_has {c : Config} (h : c.accepted = true) (k : Fin 2) {j : Nat} (hj : j < 4) {w : Window}
    (hw : w ∈ c.windows) : ¬ w.Has (c.ctrlAddr k + j) := by
  have hmem : j ∈ [0, 1, 2, 3] := List.mem_range.mpr hj
  exact Config.ctrlOk h _ (Config.ctrlAddr_mem c k) j hmem w hw

/-- Settles O11: the windows are disjoint in pairs, and R8 keeps the control words out of all of them. -/
theorem specialWindowsDisjoint : Obligations.SpecialWindowsDisjoint := by
  intro c hc
  constructor
  · intro i j hi hj a hia hja
    exact Config.window_index_unique hc hi hj hia hja
  · intro k j hj w hw
    exact Config.ctrlByte_not_has hc k hj hw

namespace Machine

theorem State.takeFrame_of_queue_cons {s : State} {f : Frame} {rest : List Frame} (h : s.queue = f :: rest) :
    s.takeFrame = some (f, { s with queue := rest }) := by
  simp only [State.takeFrame, h]

theorem runFrame_of_decode_ok {s : State} {f : Frame} {i : Instr} (h : decode s.cfg f = .ok i) :
    runFrame f s = exec i s := by
  simp only [runFrame, h]

/-- R5: a step under an accepted configuration performs the next frame, with that frame taken from the queue. -/
theorem step_of_queue_cons {s : State} {f : Frame} {rest : List Frame} (hc : s.cfg.accepted = true)
    (hq : s.queue = f :: rest) : step s = runFrame f { s with queue := rest } := by
  rw [step, if_pos hc, State.takeFrame_of_queue_cons hq]

/-- R8: a step under a configuration that fails a check is refused. -/
theorem step_of_not_accepted {s : State} (hc : s.cfg.accepted = false) : step s = .refused .configuration := by
  rw [step, if_neg (Bool.eq_false_iff.mp hc)]

/-- Settles O8: the next frame is taken and decoded under the configuration, which taking it does not change. -/
theorem stepRunsDecoded : Obligations.StepRunsDecoded := by
  intro s f rest i hc hq hd
  calc step s = runFrame f { s with queue := rest } := step_of_queue_cons hc hq
    _ = exec i { s with queue := rest } := runFrame_of_decode_ok hd

/-- Settles O10: acceptance is tested before a frame is taken. -/
theorem badConfigurationRefused : Obligations.BadConfigurationRefused := by
  intro s hc
  exact step_of_not_accepted hc

end Machine

end Sys2Proof
end

section
/-! PROOF. The state of the block (spec/10_state.md): what a completed instruction leaves in each piece of state, and
what follows from it: the invariant, the writers of each piece, the rise and fall of a pending bit, and that M never
reaches the banks. -/

namespace Sys2Proof.Machine

open Sys2Proof

/- The bits of a bank. -/

theorem bankByte_set (bank : List Byte) (r r' : Nat) (x : Byte) :
    bankByte (bank.set r x) r' = if r = r' ∧ r < bank.length then x else bankByte bank r' := by
  simp only [bankByte, List.getD_eq_getElem?_getD, List.getElem?_set]
  by_cases hr : r = r'
  · subst hr
    by_cases hlt : r < bank.length <;> simp [hlt]
  · simp [hr]

@[simp] theorem bankByte_replicate_zero (n r : Nat) : bankByte (List.replicate n 0#8) r = 0#8 := by
  simp only [bankByte, List.getD_eq_getElem?_getD, List.getElem?_replicate]
  split <;> rfl

theorem getLsbD_one_shiftLeft (b b' : Nat) : ((1 : Byte) <<< b).getLsbD b' = decide (b' = b ∧ b < 8) := by
  rw [BitVec.getLsbD_shiftLeft, BitVec.ofNat_eq_ofNat, BitVec.getLsbD_one, Bool.eq_iff_iff]
  simp only [Bool.and_eq_true, Bool.not_eq_true', decide_eq_true_eq, decide_eq_false_iff_not]
  omega

/-- A pending bit after RAISE or a taken KEY (R118, R144): set, if it is the line's bit and the bank holds it. -/
theorem getLsbD_setPending (s : State) (r b r' b' : Nat) :
    (bankByte (s.setPending r b).pend r').getLsbD b' =
      ((bankByte s.pend r').getLsbD b' || decide (r' = r ∧ b' = b ∧ r < s.pend.length ∧ b < 8)) := by
  rw [State.setPending_pend, bankByte_set]
  by_cases hr : r = r' ∧ r < s.pend.length
  · obtain ⟨rfl, hlt⟩ := hr
    rw [if_pos ⟨rfl, hlt⟩, BitVec.getLsbD_or, getLsbD_one_shiftLeft]
    simp [hlt]
  · have hline : ¬ (r' = r ∧ b' = b ∧ r < s.pend.length ∧ b < 8) := fun h => hr ⟨h.1.symm, h.2.2.1⟩
    simp [if_neg hr, hline]

/-- A pending bit after WR.PEND (R89): cleared, if it is in the byte written and its bit of v is 1. -/
theorem getLsbD_clearPending (s : State) (r : Nat) (v : Byte) (r' b' : Nat) :
    (bankByte (s.clearPending r v).pend r').getLsbD b' =
      ((bankByte s.pend r').getLsbD b' && !(decide (r' = r ∧ r < s.pend.length) && v.getLsbD b')) := by
  rw [State.clearPending_pend, bankByte_set]
  by_cases hr : r = r' ∧ r < s.pend.length
  · obtain ⟨rfl, hlt⟩ := hr
    rw [if_pos ⟨rfl, hlt⟩, BitVec.getLsbD_and, BitVec.getLsbD_not]
    by_cases hb : b' < 8
    · simp [hlt, hb]
    · simp [BitVec.getLsbD_of_ge _ _ (Nat.not_lt.mp hb)]
  · have hline : ¬ (r' = r ∧ r < s.pend.length) := fun h => hr ⟨h.1.symm, h.2⟩
    simp [if_neg hr, hline]

/- irq_level. -/

theorem activeByte_congr {s t : State} (hp : s.pend = t.pend) (hm : s.mask = t.mask) (r : Nat) :
    activeByte s r = activeByte t r := by
  rw [activeByte, activeByte, hp, hm]

theorem highestAmong_congr {s t : State} (hc : s.cfg = t.cfg) (hp : s.pend = t.pend) (hm : s.mask = t.mask)
    (gs : List Group) : highestAmong s gs = highestAmong t gs := by
  induction gs with
  | nil => rw [highestAmong, highestAmong, hc]
  | cons g gs ih => rw [highestAmong, highestAmong, ih, activeByte_congr hp hm, hc]

/-- R33: irq_level depends on the two banks, and on the configuration, only. -/
theorem irqLevel_congr {s t : State} (hc : s.cfg = t.cfg) (hp : s.pend = t.pend) (hm : s.mask = t.mask) :
    irqLevel s = irqLevel t :=
  highestAmong_congr hc hp hm Group.all

/-- R112: with no active line in any of the groups, no level is reported. -/
theorem highestAmong_eq_noneLevel {s : State} {gs : List Group}
    (h : ∀ g ∈ gs, activeByte s (s.cfg.groupIndex.get g) = 0) : highestAmong s gs = s.cfg.noneLevel := by
  induction gs with
  | nil => rfl
  | cons g gs ih =>
    rw [List.forall_mem_cons] at h
    rw [highestAmong, if_neg (not_not_intro h.1), ih h.2]

/-- Settles O45: each group tested in rank order reads the two banks only. -/
theorem irqLevelOfPendAndMask : Obligations.IrqLevelOfPendAndMask := by
  intro s t hc hp hm
  exact irqLevel_congr hc hp hm

theorem activeByte_resetWith (c : Config) (r : Nat) : activeByte (State.resetWith c) r = 0 := by
  simp [activeByte, State.resetWith]

/-- Settles O18: the banks of the reset state are zero, so no group has an active line. -/
theorem resetValues : Obligations.ResetValues := by
  intro c
  refine ⟨fun r => ⟨bankByte_replicate_zero _ r, bankByte_replicate_zero _ r⟩, List.length_replicate,
    List.length_replicate, ?_, rfl, ?_⟩
  · intro i
    exact Five.get_ofFn (fun _ => 0) i
  · exact highestAmong_eq_noneLevel fun g _ => activeByte_resetWith c _

/- What each piece of state is after an instruction that completes. -/

/-- The pending bank after an instruction (R21). -/
def pendAfter (s : State) : Instr → List Byte
  | .wrPend _ addr v => (s.clearPending (pendIndex s.cfg addr) (lowByte v)).pend
  | .key code _ =>
    (takenKey s.cfg code).elim s.pend fun _ => (s.setPending s.cfg.groupIndex.superIO s.cfg.kbdIrqBit).pend
  | .raise r b => (s.setPending r.toNat b.toNat).pend
  | .reset => List.replicate s.cfg.ngroups 0x00
  | _ => s.pend

/-- The mask bank after an instruction (R22). -/
def maskAfter (s : State) : Instr → List Byte
  | .wrMask _ addr v => (s.setMaskByte (maskIndex s.cfg addr) (lowByte v)).mask
  | .reset => List.replicate s.cfg.ngroups 0x00
  | _ => s.mask

/-- The counters after an instruction (R24). -/
def timerAfter (s : State) : Instr → Five Nat
  | .wrTmr n addr v =>
    s.timer.set (timerIndex s.cfg addr) (trunc s.cfg.timerWidth (trunc (8 * n.bytes) v.toNat))
  | .adv cycles frames => Five.ofFn (advancedTimer s cycles frames)
  | .reset => Five.ofFn fun _ => 0
  | _ => s.timer

/-- The keyboard slot after an instruction (R25). -/
def kbdAfter (s : State) : Instr → Byte
  | .rdKbd _ _ => 0x00
  | .key code isKeyDown => (takenKey s.cfg code).elim s.kbd (eventByte isKeyDown)
  | .reset => 0x00
  | _ => s.kbd

/-- M after an instruction (R31). -/
def memAfter (s : State) : Instr → Memory
  | .rdRtc _ _ => snapshot s.cfg s.nextReading s.mem
  | .wrUnh n addr v => memWrite s.cfg.byteOrder s.mem addr.toNat n.bytes v.toNat
  | _ => s.mem

/-- The wall-clock readings to come and the draws made after an instruction (R150). -/
def clockAfter (s : State) : Instr → List WallClock × Nat
  | .rdRtc _ _ => (s.clock.tail, s.draws + 1)
  | _ => (s.clock, s.draws)

/-- The Signal events of an instruction (R145). -/
def signalsOf (s : State) : Instr → List Nat
  | .key code _ => (takenKey s.cfg code).elim [] fun _ => [s.cfg.levelOfGroup.superIO]
  | _ => []

section
variable (s : State) (n : Size) (addr v code : Word) (down : Bool)

theorem pendAfter_wrPend :
    pendAfter s (.wrPend n addr v) = (s.clearPending (pendIndex s.cfg addr) (lowByte v)).pend := rfl

theorem pendAfter_key : pendAfter s (.key code down) =
    (takenKey s.cfg code).elim s.pend fun _ => (s.setPending s.cfg.groupIndex.superIO s.cfg.kbdIrqBit).pend := rfl

theorem pendAfter_raise (r : Word) (b : BitVec 3) :
    pendAfter s (.raise r b) = (s.setPending r.toNat b.toNat).pend := rfl

theorem pendAfter_reset : pendAfter s .reset = List.replicate s.cfg.ngroups 0x00 := rfl

theorem maskAfter_wrMask :
    maskAfter s (.wrMask n addr v) = (s.setMaskByte (maskIndex s.cfg addr) (lowByte v)).mask := rfl

theorem timerAfter_wrTmr : timerAfter s (.wrTmr n addr v) =
    s.timer.set (timerIndex s.cfg addr) (trunc s.cfg.timerWidth (trunc (8 * n.bytes) v.toNat)) := rfl

theorem timerAfter_adv (cycles frames : Word) :
    timerAfter s (.adv cycles frames) = Five.ofFn (advancedTimer s cycles frames) := rfl

theorem timerAfter_reset : timerAfter s .reset = Five.ofFn fun _ => 0 := rfl

theorem kbdAfter_key :
    kbdAfter s (.key code down) = (takenKey s.cfg code).elim s.kbd (eventByte down) := rfl

theorem signalsOf_key : signalsOf s (.key code down) =
    (takenKey s.cfg code).elim [] fun _ => [s.cfg.levelOfGroup.superIO] := rfl

end

/-- State t has every piece as instruction i leaves it when it completes in state s. A field left out in building one
holds by definition. -/
structure Effect (s : State) (i : Instr) (t : State) : Prop where
  cfg     : t.cfg = s.cfg := by rfl
  pend    : t.pend = pendAfter s i := by rfl
  mask    : t.mask = maskAfter s i := by rfl
  timer   : t.timer = timerAfter s i := by rfl
  kbd     : t.kbd = kbdAfter s i := by rfl
  mem     : t.mem = memAfter s i := by rfl
  clock   : (t.clock, t.draws) = clockAfter s i := by rfl
  signals : t.resp.signals = signalsOf s i := by rfl
  diags   : t.resp.diags = [] ∨ t.resp.diags = [.event] ∧ ∃ level, i = .ack level := by exact .inl rfl

theorem execKey_effect {s t : State} {code : Word} {down : Bool} (h : execKey code down s = .next t) :
    Effect s (.key code down) t := by
  obtain ⟨hk, rfl⟩ | ⟨idx, hk, rfl⟩ := execKey_next.mp h
  all_goals
    exact
      { pend := by rw [pendAfter_key, hk]; rfl
        kbd := by rw [kbdAfter_key, hk]; rfl
        signals := by rw [signalsOf_key, hk]; rfl }

theorem execAck_effect {s t : State} {level : Word} (h : execAck level s = .next t) : Effect s (.ack level) t := by
  obtain rfl | ⟨r, b, -, rfl⟩ := execAck_next h
  · exact { diags := .inr ⟨rfl, level, rfl⟩ }
  · exact {}

/-- The state after an instruction that completes, piece by piece. -/
theorem exec_effect {s t : State} {i : Instr} (h : exec i s = .next t) : Effect s i t := by
  cases i with
  | rdPend n addr => obtain ⟨-, rfl⟩ := (execRdPend_next (n := n)).mp h; exact {}
  | rdMask n addr => obtain ⟨-, rfl⟩ := (execRdMask_next (n := n)).mp h; exact {}
  | rdKbd n addr => obtain ⟨-, rfl⟩ := (execRdKbd_next (n := n)).mp h; exact {}
  | rdTmr n addr => obtain ⟨-, rfl⟩ := execRdTmr_next.mp h; exact {}
  | rdTmrna n addr => obtain ⟨-, -, rfl⟩ := execRdTmrna_next.mp h; exact {}
  | rdRtc n addr => obtain ⟨-, -, rfl⟩ := execRdRtc_next.mp h; exact {}
  | rdMem n addr => obtain ⟨-, -, rfl⟩ := execRdMem_next.mp h; exact {}
  | wrPend n addr v => obtain ⟨-, rfl⟩ := (execWrPend_next (n := n)).mp h; exact {}
  | wrMask n addr v => obtain ⟨-, rfl⟩ := (execWrMask_next (n := n)).mp h; exact {}
  | wrTmr n addr v => obtain ⟨-, rfl⟩ := execWrTmr_next.mp h; exact {}
  | wrUnh n addr v => obtain ⟨-, -, rfl⟩ := execWrUnh_next.mp h; exact {}
  | adv cycles frames => obtain rfl := execAdv_next.mp h; exact {}
  | key code down => exact execKey_effect h
  | ack level => exact execAck_effect h
  | poll => obtain rfl := execPoll_next.mp h; exact {}
  | raise r b => obtain ⟨-, rfl⟩ := execRaise_next.mp h; exact {}
  | reset => obtain rfl := execReset_next.mp h; exact {}

/- The invariant. -/

theorem pendAfter_length {s : State} (h : s.pend.length = s.cfg.ngroups) (i : Instr) :
    (pendAfter s i).length = s.cfg.ngroups := by
  cases i with
  | wrPend n addr v => simpa [pendAfter_wrPend] using h
  | raise r b => simpa [pendAfter_raise] using h
  | key code down => cases hk : takenKey s.cfg code <;> simpa [pendAfter_key, hk] using h
  | reset => exact List.length_replicate
  | _ => exact h

theorem maskAfter_length {s : State} (h : s.mask.length = s.cfg.ngroups) (i : Instr) :
    (maskAfter s i).length = s.cfg.ngroups := by
  cases i with
  | wrMask n addr v => simpa [maskAfter_wrMask] using h
  | reset => exact List.length_replicate
  | _ => exact h

theorem trunc_lt (w v : Nat) : trunc w v < 2 ^ w := Nat.mod_lt v (Nat.two_pow_pos w)

theorem advancedTimer_lt {s : State} {k : Fin 5} (h : s.timer.get k < 2 ^ s.cfg.timerWidth) (cycles frames : Word) :
    advancedTimer s cycles frames k < 2 ^ s.cfg.timerWidth := by
  unfold advancedTimer
  split
  · exact trunc_lt _ _
  · exact h

theorem timerAfter_lt {s : State} (h : ∀ k, s.timer.get k < 2 ^ s.cfg.timerWidth) (i : Instr) (k : Fin 5) :
    (timerAfter s i).get k < 2 ^ s.cfg.timerWidth := by
  cases i with
  | wrTmr n addr v =>
    rw [timerAfter_wrTmr, Five.get_set]
    split
    · exact trunc_lt _ _
    · exact h k
  | adv cycles frames =>
    rw [timerAfter_adv, Five.get_ofFn]
    exact advancedTimer_lt (h k) cycles frames
  | reset =>
    rw [timerAfter_reset, Five.get_ofFn]
    exact Nat.two_pow_pos _
  | _ => exact h k

/-- The two rows that write M store inside the space: the RTC bytes lie there (R40), and WR.UNH is refused when its
bytes run past the top (R41). -/
theorem exec_keeps_mem_wf {s t : State} {i : Instr} (h : exec i s = .next t) (hc : s.cfg.accepted = true)
    (hm : s.mem.wf = true) : t.mem.wf = true := by
  rw [(exec_effect h).mem]
  cases i with
  | rdRtc n addr => exact snapshot_wf hc _ hm
  | wrUnh n addr v =>
    obtain ⟨-, hfit, -⟩ := execWrUnh_next.mp h
    exact memWrite_wf hm _ hfit _
  | _ => exact hm

theorem exec_keeps_wf {s t : State} {i : Instr} (hs : s.wf) (h : exec i s = .next t) : t.wf := by
  obtain ⟨hc, hp, hmask, htimer, hmem⟩ := hs
  have e := exec_effect h
  refine ⟨?_, ?_, ?_, ?_, exec_keeps_mem_wf h hc hmem⟩
  · rw [e.cfg, hc]
  · rw [e.pend, e.cfg, pendAfter_length hp]
  · rw [e.mask, e.cfg, maskAfter_length hmask]
  · rw [e.timer, e.cfg]
    exact timerAfter_lt htimer i

/-- A step that answers a next state was idle, or performed the instruction of the next frame. -/
theorem step_next {s t : State} (h : step s = .next t) :
    t = s ∨ ∃ f rest i, s.queue = f :: rest ∧ decode s.cfg f = .ok i ∧ exec i { s with queue := rest } = .next t := by
  have hc : s.cfg.accepted = true := by
    by_contra hbad
    rw [step_of_not_accepted (Bool.eq_false_iff.mpr hbad)] at h
    nomatch h
  cases hq : s.queue with
  | nil =>
    have hidle : step s = .next s := by simp [step, hc, State.takeFrame, hq]
    exact .inl (by simpa [hidle, eq_comm] using h)
  | cons f rest =>
    rw [step_of_queue_cons hc hq] at h
    cases hd : decode s.cfg f with
    | error e => simp [runFrame, hd] at h
    | ok i =>
      have hrun : runFrame f { s with queue := rest } = exec i { s with queue := rest } := runFrame_of_decode_ok hd
      exact .inr ⟨f, rest, i, rfl, hd, hrun.symm.trans h⟩

/-- Settles O16: taking a frame from the queue touches nothing the invariant speaks of, and performing it keeps the
invariant. -/
theorem stepKeepsInvariant : Obligations.StepKeepsInvariant := by
  intro s t hs h
  obtain rfl | ⟨f, rest, i, -, -, hexec⟩ := step_next h
  · exact hs
  · have hrest : { s with queue := rest }.wf := hs
    exact exec_keeps_wf hrest hexec

/- The writers of each piece of state. -/

theorem writer_of_maskAfter_ne {s : State} {i : Instr} (h : maskAfter s i ≠ s.mask) :
    i = .reset ∨ ∃ n addr v, i = .wrMask n addr v := by
  cases i with
  | wrMask n addr v => exact .inr ⟨n, addr, v, rfl⟩
  | reset => exact .inl rfl
  | _ => exact absurd rfl h

theorem writer_of_timerAfter_ne {s : State} {i : Instr} (h : timerAfter s i ≠ s.timer) :
    i = .reset ∨ (∃ n addr v, i = .wrTmr n addr v) ∨ ∃ cycles frames, i = .adv cycles frames := by
  cases i with
  | wrTmr n addr v => exact .inr (.inl ⟨n, addr, v, rfl⟩)
  | adv cycles frames => exact .inr (.inr ⟨cycles, frames, rfl⟩)
  | reset => exact .inl rfl
  | _ => exact absurd rfl h

theorem writer_of_kbdAfter_ne {s : State} {i : Instr} (h : kbdAfter s i ≠ s.kbd) :
    i = .reset ∨ (∃ n addr, i = .rdKbd n addr) ∨ ∃ code down, i = .key code down := by
  cases i with
  | rdKbd n addr => exact .inr (.inl ⟨n, addr, rfl⟩)
  | key code down => exact .inr (.inr ⟨code, down, rfl⟩)
  | reset => exact .inl rfl
  | _ => exact absurd rfl h

theorem writer_of_memAfter_ne {s : State} {i : Instr} (h : memAfter s i ≠ s.mem) :
    (∃ n addr, i = .rdRtc n addr) ∨ ∃ n addr v, i = .wrUnh n addr v := by
  cases i with
  | rdRtc n addr => exact .inl ⟨n, addr, rfl⟩
  | wrUnh n addr v => exact .inr ⟨n, addr, v, rfl⟩
  | _ => exact absurd rfl h

theorem writer_of_clockAfter_ne {s : State} {i : Instr} (h : clockAfter s i ≠ (s.clock, s.draws)) :
    ∃ n addr, i = .rdRtc n addr := by
  cases i with
  | rdRtc n addr => exact ⟨n, addr, rfl⟩
  | _ => exact absurd rfl h

/-- Settles O59: each piece after the instruction is its function above, which differs from the piece before only on
the piece's writers. -/
theorem eachPieceHasItsWriters : Obligations.EachPieceHasItsWriters := by
  intro s t i h
  have e := exec_effect h
  refine ⟨?_, ?_, ?_, ?_, ?_, ?_, e.cfg⟩
  · rw [e.mask]
    exact writer_of_maskAfter_ne
  · rw [e.timer]
    exact writer_of_timerAfter_ne
  · rw [e.kbd]
    exact writer_of_kbdAfter_ne
  · rw [e.mem]
    exact writer_of_memAfter_ne
  · intro hne
    apply writer_of_clockAfter_ne (s := s)
    rw [← e.clock]
    simpa [Prod.ext_iff, imp_iff_not_or] using hne
  · exact e.diags.resolve_left

/- Pending bits. -/

/-- R21: a pending bit that becomes 1 is the line of a RAISE, or SUPERIO's keyboard bit at a KEY that is taken. -/
theorem riser_of_pendAfter {s : State} {i : Instr} {r b : Nat} (h0 : (bankByte s.pend r).getLsbD b = false)
    (h1 : (bankByte (pendAfter s i) r).getLsbD b = true) :
    (∃ r' b', i = .raise r' b' ∧ r'.toNat = r ∧ b'.toNat = b) ∨
    (∃ code down, i = .key code down ∧ r = s.cfg.groupIndex.superIO ∧ b = s.cfg.kbdIrqBit ∧
      signalsOf s i = [s.cfg.levelOfGroup.superIO]) := by
  have changed : pendAfter s i ≠ s.pend := fun h => by simp [h, h0] at h1
  cases i with
  | wrPend n addr v =>
    rw [pendAfter_wrPend, getLsbD_clearPending, h0, Bool.false_and] at h1
    nomatch h1
  | raise r' b' =>
    rw [pendAfter_raise, getLsbD_setPending, h0, Bool.false_or, decide_eq_true_eq] at h1
    obtain ⟨hr, hb, -, -⟩ := h1
    exact .inl ⟨r', b', rfl, hr.symm, hb.symm⟩
  | key code down =>
    cases hk : takenKey s.cfg code with
    | none => exact absurd (by rw [pendAfter_key, hk, Option.elim_none]) changed
    | some idx =>
      rw [pendAfter_key, hk, Option.elim_some, getLsbD_setPending, h0, Bool.false_or, decide_eq_true_eq] at h1
      obtain ⟨hr, hb, -, -⟩ := h1
      exact .inr ⟨code, down, rfl, hr, hb, by rw [signalsOf_key, hk, Option.elim_some]⟩
  | reset => simp [pendAfter_reset] at h1
  | _ => exact absurd rfl changed

/-- R21, R89: a pending bit that becomes 0 is in the byte of a WR.PEND whose v has that bit, or falls by RESET. -/
theorem faller_of_pendAfter {s : State} {i : Instr} {r b : Nat} (h1 : (bankByte s.pend r).getLsbD b = true)
    (h0 : (bankByte (pendAfter s i) r).getLsbD b = false) :
    (∃ n addr v, i = .wrPend n addr v ∧ r = pendIndex s.cfg addr ∧ (lowByte v).getLsbD b = true) ∨ i = .reset := by
  have changed : pendAfter s i ≠ s.pend := fun h => by simp [h, h1] at h0
  cases i with
  | wrPend n addr v =>
    rw [pendAfter_wrPend, getLsbD_clearPending, h1, Bool.true_and, Bool.not_eq_false', Bool.and_eq_true,
      decide_eq_true_eq] at h0
    obtain ⟨⟨hr, -⟩, hb⟩ := h0
    exact .inl ⟨n, addr, v, rfl, hr, hb⟩
  | raise r' b' =>
    rw [pendAfter_raise, getLsbD_setPending, h1, Bool.true_or] at h0
    nomatch h0
  | key code down =>
    cases hk : takenKey s.cfg code with
    | none => exact absurd (by rw [pendAfter_key, hk, Option.elim_none]) changed
    | some idx =>
      rw [pendAfter_key, hk, Option.elim_some, getLsbD_setPending, h1, Bool.true_or] at h0
      nomatch h0
  | reset => exact .inr rfl
  | _ => exact absurd rfl changed

theorem pendWindow_has_of_writeTarget {c : Config} {addr : Word} (h : writeTarget c addr = .pend) :
    c.pendWindow.Has addr.toNat := by
  by_contra hw
  rw [writeTarget, if_neg hw] at h
  split at h
  · nomatch h
  · split at h <;> nomatch h

/-- Bit b of v is set when it is set in v[7:0]. -/
theorem getLsbD_of_lowByte {v : Word} {b : Nat} (h : (lowByte v).getLsbD b = true) : v.getLsbD b = true := by
  rw [lowByte, BitVec.getLsbD_setWidth, Bool.and_eq_true] at h
  exact h.2

/-- Settles O58: the pending bank after the instruction is pendAfter, and a WR.PEND that completes has its address in
the pending window. -/
theorem pendingBitsRiseAndFall : Obligations.PendingBitsRiseAndFall := by
  intro s t i r b h
  have e := exec_effect h
  rw [e.pend, e.signals]
  refine ⟨riser_of_pendAfter, fun h1 h0 => ?_⟩
  obtain ⟨n, addr, v, rfl, rfl, hbit⟩ | hreset := faller_of_pendAfter h1 h0
  · obtain ⟨hsel, -⟩ := (execWrPend_next (n := n)).mp h
    obtain ⟨hbase, -⟩ := (Config.pendWindow_has _ _).mp (pendWindow_has_of_writeTarget hsel)
    exact .inl ⟨n, addr, v, rfl, (Nat.add_sub_cancel' hbase).symm, getLsbD_of_lowByte hbit⟩
  · exact .inr hreset

/- M and the banks. -/

theorem pendAfter_setMem (s : State) (m : Memory) (i : Instr) : pendAfter (s.setMem m) i = pendAfter s i := rfl

theorem maskAfter_setMem (s : State) (m : Memory) (i : Instr) : maskAfter (s.setMem m) i = maskAfter s i := rfl

theorem kbdAfter_setMem (s : State) (m : Memory) (i : Instr) : kbdAfter (s.setMem m) i = kbdAfter s i := rfl

/-- Settles O60: neither bank after an instruction, nor the slot, depends on M, and irq_level is a function of the
banks. -/
theorem memoryNeverReachesBanks : Obligations.MemoryNeverReachesBanks := by
  intro s t t' m i h h'
  have e := exec_effect h
  have e' : Effect (s.setMem m) i t' := exec_effect h'
  have hcfg : t.cfg = t'.cfg := by rw [e.cfg, e'.cfg, State.setMem_cfg]
  have hpend : t.pend = t'.pend := by rw [e.pend, e'.pend, pendAfter_setMem]
  have hmask : t.mask = t'.mask := by rw [e.mask, e'.mask, maskAfter_setMem]
  have hkbd : t.kbd = t'.kbd := by rw [e.kbd, e'.kbd, kbdAfter_setMem]
  exact ⟨hpend, hmask, hkbd, irqLevel_congr hcfg hpend hmask⟩

end Sys2Proof.Machine
end

section
/-! PROOF. The external memory (spec/20_memory.md): what MemRead and MemWrite do with the bytes of M, the writes that
replace, a store to a control word, the commands that only answer, and the accesses that run past the top. -/

namespace Sys2Proof

theorem Five.set_set {α : Type} (f : Five α) (i : Fin 5) (x y : α) : (f.set i x).set i y = f.set i y := by
  apply Five.ext_get
  intro j
  by_cases hj : j = i <;> simp [hj]

namespace Machine

/- MemRead and MemWrite. -/

theorem valueOfBytes_append (bs cs : List Byte) :
    valueOfBytes (bs ++ cs) = valueOfBytes bs + 256 ^ bs.length * valueOfBytes cs := by
  induction bs with
  | nil => simp [valueOfBytes]
  | cons b bs ih =>
    rw [List.cons_append, valueOfBytes, valueOfBytes, ih, List.length_cons]
    ring

/-- R41, LITTLE: the byte at the start address is the least significant. -/
theorem memRead_little_eq_sum (m : Memory) (a n : Nat) :
    memRead .little m a n = ∑ k ∈ Finset.range n, (readByte m (a + k)).toNat * 256 ^ k := by
  simp only [memRead, orderBytes]
  induction n generalizing a with
  | zero => rfl
  | succ n ih =>
    have hshift : ∀ k, (readByte m (a + (k + 1))).toNat * 256 ^ (k + 1) =
        256 * ((readByte m (a + 1 + k)).toNat * 256 ^ k) := by
      intro k
      rw [show a + (k + 1) = a + 1 + k by omega]
      ring
    rw [readBytes, valueOfBytes, ih, Finset.sum_range_succ', Finset.mul_sum, Finset.sum_congr rfl fun k _ => hshift k]
    simp [add_comm]

/-- R41, BIG: the byte at the start address is the most significant. -/
theorem memRead_big_eq_sum (m : Memory) (a n : Nat) :
    memRead .big m a n = ∑ k ∈ Finset.range n, (readByte m (a + k)).toNat * 256 ^ (n - 1 - k) := by
  simp only [memRead, orderBytes]
  induction n generalizing a with
  | zero => rfl
  | succ n ih =>
    have hshift : ∀ k, (readByte m (a + (k + 1))).toNat * 256 ^ (n + 1 - 1 - (k + 1)) =
        (readByte m (a + 1 + k)).toNat * 256 ^ (n - 1 - k) := by
      intro k
      rw [show a + (k + 1) = a + 1 + k by omega, show n + 1 - 1 - (k + 1) = n - 1 - k by omega]
    rw [readBytes, List.reverse_cons, valueOfBytes_append, ih, Finset.sum_range_succ',
      Finset.sum_congr rfl fun k _ => hshift k]
    simp [valueOfBytes, mul_comm]

/-- Settles O24: the sums over the bytes, by induction on their number. -/
theorem memReadAssemblesBytes : Obligations.MemReadAssemblesBytes := by
  intro m a n
  simp only [pow_mul]
  exact ⟨memRead_big_eq_sum m a n, memRead_little_eq_sum m a n⟩

/-- R41: the bytes just written, put back in order, are the n low bytes of the value. -/
theorem memRead_memWrite {m : Memory} (h : m.wf = true) (o : ByteOrder) {a n : Nat} (ha : Fits a n) (v : Nat) :
    memRead o (memWrite o m a n v) a n = v % 256 ^ n := by
  have hlen : (orderBytes o (bytesOfValue n v)).length = n := by simp
  have hread : readBytes (memWrite o m a n v) a n = orderBytes o (bytesOfValue n v) := by
    have hback := readBytes_writeBytes h (a := a) (bs := orderBytes o (bytesOfValue n v)) (by rwa [hlen])
    rwa [hlen] at hback
  rw [memRead, hread, orderBytes_orderBytes, valueOfBytes_bytesOfValue]

/-- Settles O33: the run written reads back, and every write keeps the canonical form. -/
theorem memReadAfterMemWrite : Obligations.MemReadAfterMemWrite := by
  intro o m a n v hm ha
  rw [pow_mul]
  exact ⟨memRead_memWrite hm o ha v, memWrite_wf hm o ha v⟩

/- Writes that replace (R46). -/

/-- A store performed again changes no byte: those of its run hold the value already, the others are not touched. -/
theorem memWrite_memWrite {m : Memory} (h : m.wf = true) (o : ByteOrder) {a n : Nat} (ha : Fits a n) (v : Nat) :
    memWrite o (memWrite o m a n v) a n v = memWrite o m a n v := by
  have hw := memWrite_wf h o ha v
  apply Memory.ext_wf (memWrite_wf hw o ha v) hw
  intro x
  by_cases hx : x < a ∨ a + n ≤ x
  · exact readByte_memWrite_outside hw o ha v hx
  · obtain ⟨k, rfl⟩ : ∃ k, x = a + k := ⟨x - a, by omega⟩
    have hk : k < n := by omega
    apply BitVec.eq_of_toNat_eq
    rw [readByte_memWrite_inside hw o ha v hk, readByte_memWrite_inside h o ha v hk]

/-- A bit cleared stays cleared when it is cleared again; a byte past the end of the bank is not written (log entry
16). -/
theorem clearPending_clearPending_pend (s : State) (r : Nat) (v : Byte) :
    ((s.clearPending r v).clearPending r v).pend = (s.clearPending r v).pend := by
  have hbyte : bankByte (s.clearPending r v).pend r &&& ~~~v = bankByte s.pend r &&& ~~~v := by
    rw [State.clearPending_pend, bankByte_set]
    split
    · rw [BitVec.and_assoc, BitVec.and_self]
    · rfl
  rw [State.clearPending_pend, hbyte, State.clearPending_pend, List.set_set]

/-- Settles O35: the response depends on nothing the write changes, and each update performed twice is the update
performed once. -/
theorem writesAreIdempotent : Obligations.WritesAreIdempotent := by
  intro s t i n addr v hm hi h
  obtain rfl | rfl | rfl | rfl := hi
  · obtain ⟨hsel, rfl⟩ := (execWrPend_next (n := n)).mp h
    exact (execWrPend_next (n := n)).mpr
      ⟨hsel, congrArg (fun bank => (s.setPend bank).respondHandled true) (clearPending_clearPending_pend s _ _).symm⟩
  · obtain ⟨hsel, rfl⟩ := (execWrMask_next (n := n)).mp h
    exact (execWrMask_next (n := n)).mpr
      ⟨hsel, congrArg (fun bank => (s.setMask bank).respondHandled true) (List.set_set ..).symm⟩
  · obtain ⟨hsel, rfl⟩ := execWrTmr_next.mp h
    exact execWrTmr_next.mpr
      ⟨hsel, congrArg (fun f => (s.setTimer f).respondHandled true) (Five.set_set s.timer _ _ _).symm⟩
  · obtain ⟨hsel, hfit, rfl⟩ := execWrUnh_next.mp h
    exact execWrUnh_next.mpr
      ⟨hsel, hfit, congrArg (fun m => (s.setMem m).respondHandled false) (memWrite_memWrite hm _ hfit _).symm⟩

/- Control words (R29, R54). -/

/-- A control word of an accepted configuration lies in the address space. -/
theorem ctrlAddr_fits {c : Config} (h : c.accepted = true) (k : Fin 2) : Fits (c.ctrlAddr k) 4 := by
  obtain ⟨-, -, h0, h1⟩ := Config.addressesOk h
  fin_cases k
  · exact h0
  · exact h1

theorem ctrlAddr_toNat {c : Config} (h : c.accepted = true) (k : Fin 2) :
    (BitVec.ofNat 32 (c.ctrlAddr k)).toNat = c.ctrlAddr k := by
  have hfit : c.ctrlAddr k + 4 ≤ 2 ^ 32 := ctrlAddr_fits h k
  rw [BitVec.toNat_ofNat, Nat.mod_eq_of_lt (by omega)]

/-- R8, R54: a store to a control word selects WR.UNH, as the word lies outside every special window. -/
theorem writeTarget_ctrlAddr {c : Config} (h : c.accepted = true) (k : Fin 2) :
    writeTarget c (BitVec.ofNat 32 (c.ctrlAddr k)) = .unh := by
  have hout : ∀ w ∈ c.windows, ¬ w.Has (c.ctrlAddr k) := fun w hw =>
    Config.ctrlByte_not_has h k (j := 0) (by omega) hw
  simp only [Config.windows, List.forall_mem_cons] at hout
  obtain ⟨hpend, hmask, -, htimer, -⟩ := hout
  rw [writeTarget, ctrlAddr_toNat h, if_neg hpend, if_neg hmask, if_neg fun hw => htimer hw.1.1]

/-- R29: a 4-byte store to a control word completes, leaves the counters, and is what ADV then samples. -/
theorem exec_ctrlStore {s : State} (hc : s.cfg.accepted = true) (hm : s.mem.wf = true) (k : Fin 2) (v : Word) :
    ∃ t, exec (.wrUnh .l (BitVec.ofNat 32 (s.cfg.ctrlAddr k)) v) s = .next t ∧ t.cfg = s.cfg ∧ t.timer = s.timer ∧
      ctrlWord t k = v.toNat := by
  have hfit : Fits (s.cfg.ctrlAddr k) 4 := ctrlAddr_fits hc k
  have haddr := ctrlAddr_toNat hc k
  refine ⟨_, execWrUnh_next.mpr ⟨writeTarget_ctrlAddr hc k, by rwa [haddr], rfl⟩, rfl, rfl, ?_⟩
  rw [haddr]
  exact (memRead_memWrite hm _ hfit _).trans (Nat.mod_eq_of_lt v.isLt)

/-- R131: a counter whose control word is v advances exactly if its bit of v is 1. -/
theorem advancedTimer_of_ctrlWord {s : State} {i : Fin 5} {v : Word}
    (h : ctrlWord s (s.cfg.timers.get i).enWord = v.toNat) (cycles frames : Word) :
    advancedTimer s cycles frames i =
      if v.getLsbD (s.cfg.timers.get i).enBit then
        (s.timer.get i + sliceCount (s.cfg.timers.get i).kind cycles frames) % 2 ^ s.cfg.timerWidth
      else s.timer.get i := by
  rw [advancedTimer, timerEnabled, h, BitVec.testBit_toNat, trunc]

/-- Settles O38: the store is performed by WR.UNH, and the ADV after it samples the word as stored. -/
theorem ctrlStoreDecidesNextAdv : Obligations.CtrlStoreDecidesNextAdv := by
  intro s k v cycles frames hc hm
  obtain ⟨t, hstore, hcfg, htimer, hword⟩ := exec_ctrlStore hc hm k v
  refine ⟨t, _, hstore, execAdv_next.mpr rfl, ?_⟩
  rintro i rfl
  rw [← hcfg] at hword ⊢
  rw [State.respondNone_timer, State.setTimer_timer, Five.get_ofFn, advancedTimer_of_ctrlWord hword, htimer]

/- Commands that only answer. -/

/-- A command that only answers. -/
def IsQuery (i : Instr) : Prop :=
  ∃ n addr level, i = .rdPend n addr ∨ i = .rdMask n addr ∨ i = .rdTmr n addr ∨ i = .rdTmrna n addr ∨
    i = .rdMem n addr ∨ i = .ack level ∨ i = .poll

/-- R45, R117: what a command that only answers leaves is the state before with another response. -/
theorem exec_query_next {s t : State} {i : Instr} (hi : IsQuery i) (h : exec i s = .next t) : ∃ r, t = s.respond r := by
  obtain ⟨n, addr, level, rfl | rfl | rfl | rfl | rfl | rfl | rfl⟩ := hi
  · exact ⟨_, ((execRdPend_next (n := n)).mp h).2⟩
  · exact ⟨_, ((execRdMask_next (n := n)).mp h).2⟩
  · exact ⟨_, (execRdTmr_next.mp h).2⟩
  · exact ⟨_, (execRdTmrna_next.mp h).2.2⟩
  · exact ⟨_, (execRdMem_next.mp h).2.2⟩
  · obtain ht | ⟨r, b, -, ht⟩ := execAck_next h
    · exact ⟨_, ht⟩
    · exact ⟨_, ht⟩
  · exact ⟨_, execPoll_next.mp h⟩

/-- Settles O54: the response is no part of what the statement names. -/
theorem queriesChangeOnlyResponse : Obligations.QueriesChangeOnlyResponse := by
  intro s t i n addr level hi h
  obtain ⟨r, rfl⟩ := exec_query_next ⟨n, addr, level, hi⟩ h
  exact ⟨rfl, rfl, rfl, rfl, rfl, fun _ => rfl, rfl, rfl, rfl⟩

/- Accesses past the top. -/

section
variable {s : State} {n : Size} {addr v : Word}

theorem execRdTmrna_eq_pastTop (hsel : readTarget s.cfg addr = .tmrna) (hfit : ¬ Fits addr.toNat n.bytes) :
    execRdTmrna n addr s = .refused .pastTop := by
  rw [execRdTmrna, if_pos hsel, readMemory, if_neg hfit]

theorem execRdRtc_eq_pastTop (hsel : readTarget s.cfg addr = .rtc) (hfit : ¬ Fits addr.toNat n.bytes) :
    execRdRtc n addr s = .refused .pastTop := by
  rw [execRdRtc, if_pos hsel, if_neg hfit]

theorem execRdMem_eq_pastTop (hsel : readTarget s.cfg addr = .mem) (hfit : ¬ Fits addr.toNat n.bytes) :
    execRdMem n addr s = .refused .pastTop := by
  rw [execRdMem, if_pos hsel, readMemory, if_neg hfit]

theorem execWrUnh_eq_pastTop (hsel : writeTarget s.cfg addr = .unh) (hfit : ¬ Fits addr.toNat n.bytes) :
    execWrUnh n addr v s = .refused .pastTop := by
  rw [execWrUnh, if_pos hsel, if_neg hfit]

end

/-- Settles O25: the four rows that access M select their address and then test that the access fits; the other rows
make no access that could run past the top. -/
theorem pastTopIsRefused : Obligations.PastTopIsRefused := by
  intro s i hc hw hpast
  obtain ⟨addr, n, haccess, hfit⟩ := hpast
  cases i with
  | rdTmrna n addr =>
    cases haccess
    obtain ⟨-, -, -, -, htmrna, -, -⟩ := readTarget_of_wellFormed hc n addr
    exact execRdTmrna_eq_pastTop (htmrna hw) hfit
  | rdRtc n addr =>
    cases haccess
    obtain ⟨-, -, -, -, -, hrtc, -⟩ := readTarget_of_wellFormed hc n addr
    exact execRdRtc_eq_pastTop (hrtc hw) hfit
  | rdMem n addr =>
    cases haccess
    obtain ⟨-, -, -, -, -, -, hmem⟩ := readTarget_of_wellFormed hc n addr
    exact execRdMem_eq_pastTop (hmem hw) hfit
  | wrUnh n addr v =>
    cases haccess
    obtain ⟨-, -, -, hunh⟩ := writeTarget_of_wellFormed hc n addr v
    exact execWrUnh_eq_pastTop (hunh hw) hfit
  | _ => nomatch haccess

end Machine

end Sys2Proof
end

section
/-! PROOF. The encoding of commands (spec/30_encoding.md R60-R71): which frames decode, that decoding and encoding undo
each other, and the rows the pseudo-instructions select. -/

namespace Sys2Proof

/- Fields. -/

/-- R60: a frame made of fields is f exactly when the fields of f are these. -/
theorem Frame.make_eq_iff {op : BitVec 8} {sz : BitVec 2} {rsv : BitVec 22} {a d : Word} {f : Frame} :
    Frame.make op sz rsv a d = f ↔ f.op = op ∧ f.sz = sz ∧ f.rsv = rsv ∧ f.a = a ∧ f.d = d := by
  constructor
  · rintro rfl
    simp
  · rintro ⟨rfl, rfl, rfl, rfl, rfl⟩
    exact Frame.make_fields f

theorem decodeSize_eq_some_iff {sz : BitVec 2} {n : Size} : decodeSize sz = some n ↔ sz = n.code :=
  ⟨fun h => (code_of_decodeSize h).symm, fun h => h ▸ decodeSize_code n⟩

theorem Size.exists_iff {p : Size → Prop} : (∃ n, p n) ↔ p .b ∨ p .w ∨ p .l := by
  constructor
  · rintro ⟨_ | _ | _, h⟩
    exacts [.inl h, .inr (.inl h), .inr (.inr h)]
  · rintro (h | h | h)
    exacts [⟨_, h⟩, ⟨_, h⟩, ⟨_, h⟩]

/-- R62: 11 is the one reserved size code. -/
theorem Size.exists_eq_code_iff {sz : BitVec 2} : (∃ n : Size, sz = n.code) ↔ sz ≠ 3#2 := by
  rw [Size.exists_iff]
  revert sz
  decide

/-- R63: the size codes that a data field D fits. Every D fits four bytes. -/
theorem Size.exists_eq_code_and_holds_iff {sz : BitVec 2} {d : Word} :
    (∃ n : Size, sz = n.code ∧ n.Holds d) ↔
      (sz = 0#2 ∧ d.toNat < 2 ^ 8) ∨ (sz = 1#2 ∧ d.toNat < 2 ^ 16) ∨ sz = 2#2 := by
  have hl : Size.l.Holds d := d.isLt
  rw [Size.exists_iff, and_iff_left hl]
  rfl

/-- R63: D holds KEY's flag when it is below 2; the flag is then D[0]. -/
theorem eq_flag_iff {d : Word} {down : Bool} : d = (if down then 1 else 0) ↔ d.toNat < 2 ∧ down = d.getLsbD 0 := by
  simp only [BitVec.getLsbD, Nat.testBit_zero]
  cases down <;> simp [← BitVec.toNat_inj] <;> omega

/-- R63: D holds RAISE's line when it is below 8; the line is then D[2:0]. -/
theorem eq_line_iff {d : Word} {b : BitVec 3} : d = b.setWidth 32 ↔ d.toNat < 8 ∧ b = d.extractLsb' 0 3 := by
  simp only [← BitVec.toNat_inj, BitVec.toNat_setWidth, BitVec.extractLsb'_toNat, Nat.shiftRight_zero]
  omega

/- What each part of the decoder accepts. -/

theorem ite_eq_ok_iff {p : Prop} [Decidable p] {ε α : Type} {x m : α} {e : ε} :
    (if p then Except.ok x else Except.error e) = Except.ok m ↔ p ∧ m = x := by
  by_cases hp : p <;> simp [hp, eq_comm]

theorem decodeRd_eq_ok_iff {f : Frame} {m : Command} :
    decodeRd f = .ok m ↔ ∃ n : Size, f.sz = n.code ∧ f.d = 0#32 ∧ m = .rd n f.a := by
  simp only [← decodeSize_eq_some_iff, decodeRd]
  cases decodeSize f.sz <;> simp [ite_eq_ok_iff]

theorem decodeWr_eq_ok_iff {f : Frame} {m : Command} :
    decodeWr f = .ok m ↔ ∃ n : Size, f.sz = n.code ∧ n.Holds f.d ∧ m = .wr n f.a f.d := by
  simp only [← decodeSize_eq_some_iff, decodeWr]
  cases decodeSize f.sz <;> simp [ite_eq_ok_iff]

theorem decodePlain_eq_ok_iff {c : Config} {f : Frame} {m : Command} :
    decodePlain c f = .ok m ↔
      (f.op = 3#8 ∧ m = .adv f.a f.d) ∨
      (f.op = 4#8 ∧ f.d.toNat < 2 ∧ m = .key f.a (f.d.getLsbD 0)) ∨
      (f.op = 5#8 ∧ f.d = 0#32 ∧ m = .ack f.a) ∨
      (f.op = 6#8 ∧ (f.a = 0#32 ∧ f.d = 0#32) ∧ m = .poll) ∨
      (f.op = 7#8 ∧ f.d.toNat < 8 ∧ f.a.toNat < c.ngroups ∧ m = .raise f.a (f.d.extractLsb' 0 3)) ∨
      (f.op = 8#8 ∧ (f.a = 0#32 ∧ f.d = 0#32) ∧ m = .reset) := by
  simp only [← BitVec.toNat_inj (x := f.op), BitVec.toNat_ofNat, Nat.reducePow, Nat.reduceMod, decodePlain]
  split
  case h_1 h => simp [h, eq_comm]
  case h_2 h => simp [h, ite_eq_ok_iff]
  case h_3 h => simp [h, ite_eq_ok_iff]
  case h_4 h => simp [h, ite_eq_ok_iff]
  case h_5 h => by_cases hd : f.d.toNat < 8 <;> simp [h, hd, ite_eq_ok_iff]
  case h_6 h => simp [h, ite_eq_ok_iff]
  case h_7 =>
    refine iff_of_false nofun ?_
    rintro (⟨h, -⟩ | ⟨h, -⟩ | ⟨h, -⟩ | ⟨h, -⟩ | ⟨h, -⟩ | ⟨h, -⟩) <;> contradiction

theorem decodePlain_ne_ok {c : Config} {f : Frame} (h : f.op.toNat < 3 ∨ 8 < f.op.toNat) (m : Command) :
    decodePlain c f ≠ .ok m := by
  rw [ne_eq, decodePlain_eq_ok_iff]
  bv_omega

/-- Steps 1 to 3 of R68. The reserved opcodes fall under the last alternative, which accepts none of them. -/
theorem decodeCommand_eq_ok_iff {c : Config} {f : Frame} {m : Command} :
    decodeCommand c f = .ok m ↔ f.rsv = 0#22 ∧
      ((f.op = 1#8 ∧ decodeRd f = .ok m) ∨ (f.op = 2#8 ∧ decodeWr f = .ok m) ∨
        (f.sz = 0#2 ∧ decodePlain c f = .ok m)) := by
  simp only [← BitVec.toNat_inj (x := f.op), BitVec.toNat_ofNat, Nat.reducePow, Nat.reduceMod, decodeCommand]
  by_cases hrsv : f.rsv = 0#22
  · rw [if_pos hrsv, and_iff_right hrsv]
    split
    case h_1 h => simp [h, decodePlain_ne_ok (c := c) (f := f) (by omega) m]
    case h_2 h => simp [h, decodePlain_ne_ok (c := c) (f := f) (by omega) m]
    case h_3 h1 h2 =>
      have hrd : ¬ (f.op.toNat = 1 ∧ decodeRd f = .ok m) := fun h => h1 h.1
      have hwr : ¬ (f.op.toNat = 2 ∧ decodeWr f = .ok m) := fun h => h2 h.1
      rw [or_iff_right hrd, or_iff_right hwr]
      split
      · simp [decodePlain_ne_ok (c := c) (f := f) (by omega) m]
      · split <;> simp [*]
  · simp [hrsv]

/- Commands and frames. -/

/-- The operand ranges of R63 and R66 that the type of a command leaves open. -/
def Command.Legal (c : Config) : Command → Prop
  | .wr n _ v => n.Holds v
  | .raise r _ => r.toNat < c.ngroups
  | _ => True

/-- R64: the frame of a legal command decodes to the command. -/
theorem decodeCommand_frame {c : Config} {m : Command} (h : m.Legal c) : decodeCommand c m.frame = .ok m := by
  cases m with
  | rd n a => simp [decodeCommand, Command.frame, decodeRd]
  | wr n a v => simpa [decodeCommand, Command.frame, decodeWr, Command.Legal] using h
  | key code down => cases down <;> simp [decodeCommand, Command.frame, decodePlain]
  | raise r b =>
    obtain ⟨hd, hb⟩ := eq_line_iff.mp (Eq.refl (b.setWidth 32))
    have hr : r.toNat < c.ngroups := h
    simp [decodeCommand, Command.frame, decodePlain, -BitVec.toNat_setWidth, hr, hd, ← hb]
  | adv cycles frames => simp [decodeCommand, Command.frame, decodePlain]
  | ack level => simp [decodeCommand, Command.frame, decodePlain]
  | poll => simp [decodeCommand, Command.frame, decodePlain]
  | reset => simp [decodeCommand, Command.frame, decodePlain]

/-- R63, R64: a frame that decodes is the frame of the command, and the command is legal. -/
theorem legal_and_frame_of_decodeCommand {c : Config} {f : Frame} {m : Command} (h : decodeCommand c f = .ok m) :
    m.Legal c ∧ m.frame = f := by
  rw [decodeCommand_eq_ok_iff, decodeRd_eq_ok_iff, decodeWr_eq_ok_iff, decodePlain_eq_ok_iff] at h
  obtain ⟨hrsv, ⟨hop, n, hsz, hd, rfl⟩ | ⟨hop, n, hsz, hd, rfl⟩ | ⟨hsz, hplain⟩⟩ := h
  · exact ⟨trivial, Frame.make_eq_iff.mpr ⟨hop, hsz, hrsv, rfl, hd⟩⟩
  · exact ⟨hd, Frame.make_eq_iff.mpr ⟨hop, hsz, hrsv, rfl, rfl⟩⟩
  · obtain ⟨hop, rfl⟩ | ⟨hop, hd, rfl⟩ | ⟨hop, hd, rfl⟩ | ⟨hop, ⟨ha, hd⟩, rfl⟩ | ⟨hop, hd, hr, rfl⟩ |
      ⟨hop, ⟨ha, hd⟩, rfl⟩ := hplain
    · exact ⟨trivial, Frame.make_eq_iff.mpr ⟨hop, hsz, hrsv, rfl, rfl⟩⟩
    · exact ⟨trivial, Frame.make_eq_iff.mpr ⟨hop, hsz, hrsv, rfl, eq_flag_iff.mpr ⟨hd, rfl⟩⟩⟩
    · exact ⟨trivial, Frame.make_eq_iff.mpr ⟨hop, hsz, hrsv, rfl, hd⟩⟩
    · exact ⟨trivial, Frame.make_eq_iff.mpr ⟨hop, hsz, hrsv, ha, hd⟩⟩
    · exact ⟨hr, Frame.make_eq_iff.mpr ⟨hop, hsz, hrsv, rfl, eq_line_iff.mpr ⟨hd, rfl⟩⟩⟩
    · exact ⟨trivial, Frame.make_eq_iff.mpr ⟨hop, hsz, hrsv, ha, hd⟩⟩

theorem decode_eq_ok_iff {c : Config} {f : Frame} {i : Instr} :
    decode c f = .ok i ↔ ∃ m, decodeCommand c f = .ok m ∧ selectRow c m = i := by
  unfold decode
  cases decodeCommand c f <;> simp

theorem exists_decode_eq_error_iff {c : Config} {f : Frame} :
    (∃ e, decode c f = .error e) ↔ ¬ ∃ m, decodeCommand c f = .ok m := by
  unfold decode
  cases decodeCommand c f <;> simp

/- Rows. -/

/-- A well-formed instruction has a legal command. -/
theorem Instr.command_legal {c : Config} {i : Instr} (h : i.wellFormed c = true) : i.command.Legal c := by
  cases i with
  | wrPend n a v | wrMask n a v | wrTmr n a v => exact (of_decide_eq_true h).2
  | wrUnh n a v => exact (of_decide_eq_true h).2.2.2
  | raise r b => exact of_decide_eq_true (p := r.toNat < c.ngroups) h
  | _ => trivial

/-- R68: a well-formed instruction is the row that its command selects. -/
theorem selectRow_command {c : Config} (hc : c.accepted = true) {i : Instr} (h : i.wellFormed c = true) :
    selectRow c i.command = i := by
  cases i with
  | rdPend n a | rdMask n a | rdKbd n a | rdTmr n a | rdTmrna n a | rdRtc n a | rdMem n a =>
    obtain ⟨hpend, hmask, hkbd, htmr, htmrna, hrtc, hmem⟩ := readTarget_of_wellFormed hc n a
    simp only [Instr.command, selectRow, *]
  | wrPend n a v | wrMask n a v | wrTmr n a v | wrUnh n a v =>
    obtain ⟨hpend, hmask, htmr, hunh⟩ := writeTarget_of_wellFormed hc n a v
    simp only [Instr.command, selectRow, *]
  | _ => rfl

/-- The row that a command selects has this command. -/
theorem command_selectRow (c : Config) (m : Command) : (selectRow c m).command = m := by
  cases m with
  | rd n a => simp only [selectRow]; split <;> rfl
  | wr n a v => simp only [selectRow]; split <;> rfl
  | _ => rfl

/-- R80: the row an RD selects meets its own address condition. -/
theorem selectRow_rd_wellFormed (c : Config) (n : Size) (a : Word) :
    (selectRow c (.rd n a)).wellFormed c = true := by
  have hkbd := Config.kbdWindow_has c a.toNat
  simp only [selectRow, readTarget]
  split_ifs with hpend hmask hk htimer haligned hrtc
  · exact decide_eq_true hpend
  · exact decide_eq_true hmask
  · exact decide_eq_true hk
  · exact decide_eq_true ⟨htimer, haligned⟩
  · exact decide_eq_true ⟨htimer, haligned⟩
  · exact decide_eq_true hrtc
  · simp only [Instr.wellFormed, Config.windows, List.forall_mem_cons, decide_eq_true_eq]
    exact ⟨hpend, hmask, mt hkbd.mp hk, htimer, hrtc, nofun⟩

/-- R88: the row a WR selects meets its own address condition. -/
theorem selectRow_wr_wellFormed (c : Config) {n : Size} {v : Word} (a : Word) (hv : n.Holds v) :
    (selectRow c (.wr n a v)).wellFormed c = true := by
  simp only [selectRow, writeTarget]
  split_ifs with hpend hmask htmr
  · exact decide_eq_true ⟨hpend, hv⟩
  · exact decide_eq_true ⟨hmask, hv⟩
  · exact decide_eq_true ⟨htmr, hv⟩
  · exact decide_eq_true ⟨hpend, hmask, htmr, hv⟩

theorem selectRow_wellFormed {c : Config} {m : Command} (h : m.Legal c) : (selectRow c m).wellFormed c = true := by
  cases m with
  | rd n a => exact selectRow_rd_wellFormed c n a
  | wr n a v => exact selectRow_wr_wellFormed c a h
  | raise r b => exact decide_eq_true h
  | _ => rfl

/- Decoding and encoding. -/

/-- Settles O1: the frame decodes to the command of the instruction, which selects the instruction's own row. -/
theorem decodeOfEncode : Obligations.DecodeOfEncode := by
  intro c i hc h
  exact decode_eq_ok_iff.mpr ⟨i.command, decodeCommand_frame (Instr.command_legal h), selectRow_command hc h⟩

/-- Settles O2: the row that a command selects keeps the command, whose frame has every field of f. -/
theorem encodeOfDecode : Obligations.EncodeOfDecode := by
  intro c f i h
  obtain ⟨m, hm, rfl⟩ := decode_eq_ok_iff.mp h
  calc encode (selectRow c m) = m.frame := congrArg Command.frame (command_selectRow c m)
    _ = f := (legal_and_frame_of_decodeCommand hm).2

/-- Settles O3: a decoded command is legal, and a legal command selects a row whose address condition holds. -/
theorem decodedIsWellFormed : Obligations.DecodedIsWellFormed := by
  intro c f i h
  obtain ⟨m, hm, rfl⟩ := decode_eq_ok_iff.mp h
  exact selectRow_wellFormed (legal_and_frame_of_decodeCommand hm).1

/- Illegal frames. -/

/-- R66, R68: the legal frames, by opcode. -/
theorem exists_decodeCommand_eq_ok_iff {c : Config} {f : Frame} :
    (∃ m, decodeCommand c f = .ok m) ↔ f.rsv = 0#22 ∧
      ((f.op = 1#8 ∧ f.sz ≠ 3#2 ∧ f.d = 0#32) ∨
        (f.op = 2#8 ∧ ((f.sz = 0#2 ∧ f.d.toNat < 2 ^ 8) ∨ (f.sz = 1#2 ∧ f.d.toNat < 2 ^ 16) ∨ f.sz = 2#2)) ∨
        (f.sz = 0#2 ∧
          (f.op = 3#8 ∨ (f.op = 4#8 ∧ f.d.toNat < 2) ∨ (f.op = 5#8 ∧ f.d = 0#32) ∨
            (f.op = 6#8 ∧ f.a = 0#32 ∧ f.d = 0#32) ∨ (f.op = 7#8 ∧ f.d.toNat < 8 ∧ f.a.toNat < c.ngroups) ∨
            (f.op = 8#8 ∧ f.a = 0#32 ∧ f.d = 0#32)))) := by
  simp only [decodeCommand_eq_ok_iff, decodeRd_eq_ok_iff, decodeWr_eq_ok_iff, decodePlain_eq_ok_iff, exists_and_left,
    exists_or, exists_comm (α := Command), exists_eq, and_true,
    exists_and_right, Size.exists_eq_code_iff, Size.exists_eq_code_and_holds_iff]

/-- R61: the opcodes, the reserved ones last. -/
theorem opcode_cases (op : BitVec 8) :
    op = 1#8 ∨ op = 2#8 ∨ op = 3#8 ∨ op = 4#8 ∨ op = 5#8 ∨ op = 6#8 ∨ op = 7#8 ∨ op = 8#8 ∨
      (op = 0#8 ∨ 9#8 ≤ op) := by
  bv_omega

/-- Settles O4: the complement of the legal frames, opcode by opcode. -/
theorem illegalFramesExactly : Obligations.IllegalFramesExactly := by
  intro c f
  rw [exists_decode_eq_error_iff, exists_decodeCommand_eq_ok_iff]
  -- The opcode leaves one clause of the legal frames, and its own clauses of R66's list.
  rcases opcode_cases f.op with hop | hop | hop | hop | hop | hop | hop | hop | hop
  all_goals
    simp [hop]
    bv_omega

/- Pseudo-instructions (R70). -/

section
variable {c : Config} {a : Nat}

/-- R40: an address of a special window of an accepted configuration fits the address operand. -/
theorem Config.toNat_of_has (hc : c.accepted = true) {w : Window} (hw : w ∈ c.windows) (ha : w.Has a) :
    (BitVec.ofNat 32 a).toNat = a := by
  have hlt : a < 2 ^ 32 := ha.2.trans_le ((Config.addressesOk hc).1 w hw)
  rw [BitVec.toNat_ofNat, Nat.mod_eq_of_lt hlt]

theorem Config.toNat_rtcOff (hc : c.accepted = true) (f : RtcField) :
    (BitVec.ofNat 32 (c.rtcOff.get f)).toNat = c.rtcOff.get f :=
  Nat.mod_eq_of_lt (Config.rtcOff_lt hc f)

end
end Sys2Proof

namespace Sys2Proof.Machine
open Sys2Proof

section
variable {c : Config} (hc : c.accepted = true)
include hc

/-- O1 for a command whose row depends on the configuration. -/
theorem decode_frame_of_wellFormed {i : Instr} {m : Command} (hm : i.command = m) (h : i.wellFormed c = true) :
    decode c m.frame = .ok i := hm ▸ decodeOfEncode c i hc h

theorem pendAddr_has {r : Nat} (hr : r < c.ngroups) : c.pendWindow.Has (BitVec.ofNat 32 (c.icrPendBase + r)).toNat := by
  have ha : c.pendWindow.Has (c.icrPendBase + r) := ⟨Nat.le_add_right _ _, Nat.add_lt_add_left hr _⟩
  rwa [Config.toNat_of_has hc (by simp [Config.windows]) ha]

theorem maskAddr_has {r : Nat} (hr : r < c.ngroups) : c.maskWindow.Has (BitVec.ofNat 32 (c.icrMaskBase + r)).toNat := by
  have ha : c.maskWindow.Has (c.icrMaskBase + r) := ⟨Nat.le_add_right _ _, Nat.add_lt_add_left hr _⟩
  rwa [Config.toNat_of_has hc (by simp [Config.windows]) ha]

theorem kbdAddr_toNat : (BitVec.ofNat 32 c.kbdAddr).toNat = c.kbdAddr :=
  Config.toNat_of_has hc (w := c.kbdWindow) (by simp [Config.windows]) ((Config.kbdWindow_has c _).mpr rfl)

theorem timerAddr_toNat (i : Fin 5) : (BitVec.ofNat 32 (c.timerBase + 8 * i.val)).toNat = c.timerBase + 8 * i.val :=
  Config.toNat_of_has hc (w := c.timerWindow) (by simp [Config.windows]) (Config.timerAligned_of_index rfl).1

theorem wellFormed_rdTmr_index (i : Fin 5) :
    (Instr.rdTmr .l (BitVec.ofNat 32 (c.timerBase + 8 * i.val))).wellFormed c = true :=
  decide_eq_true (Config.timerAligned_of_index (timerAddr_toNat hc i))

/-- R88: WR to the address of a counter reaches the counter if it is writable, and is unhandled otherwise. -/
theorem wellFormed_wr_index (i : Fin 5) (v : Word) :
    (if (c.timers.get i).writable = true then Instr.wrTmr .l (BitVec.ofNat 32 (c.timerBase + 8 * i.val)) v
      else .wrUnh .l (BitVec.ofNat 32 (c.timerBase + 8 * i.val)) v).wellFormed c = true := by
  have ha := timerAddr_toNat hc i
  have haligned := Config.timerAligned_of_index ha
  have hindex := Config.timerIndex_of_index ha
  have hv : Size.l.Holds v := v.isLt
  split_ifs with hw
  · exact decide_eq_true ⟨⟨haligned, by rwa [hindex]⟩, hv⟩
  · obtain ⟨⟨-, -, hpend, -⟩, ⟨-, hmask, -⟩, -, -⟩ := Config.windows_disjoint hc
    exact decide_eq_true ⟨fun h => hpend.not_has h haligned.1, fun h => hmask.not_has h haligned.1,
      fun h => hw (hindex ▸ h.2), hv⟩

/-- R8, R80: RD of an RTC byte selects RD.RTC in the RTC window, and plain memory outside it. -/
theorem wellFormed_rd_rtcOff (f : RtcField) :
    (if c.rtcBase ≤ c.rtcOff.get f ∧ c.rtcOff.get f < c.rtcBase + c.rtcSize then
        Instr.rdRtc .b (BitVec.ofNat 32 (c.rtcOff.get f))
      else .rdMem .b (BitVec.ofNat 32 (c.rtcOff.get f))).wellFormed c = true := by
  have ha := Config.toNat_rtcOff hc f
  split_ifs with hrtc
  · rw [← Config.rtcWindow_has, ← ha] at hrtc
    exact decide_eq_true hrtc
  · have hout := Config.rtcOffsOk hc f (RtcField.mem_all f)
    simp only [List.forall_mem_cons] at hout
    obtain ⟨hpend, hmask, hkbd, htimer, -⟩ := hout
    simp only [Instr.wellFormed, Config.windows, List.forall_mem_cons, decide_eq_true_eq, ha]
    exact ⟨hpend, hmask, hkbd, htimer, hrtc, nofun⟩

theorem wellFormed_wrUnh_ctrlAddr (k : Fin 2) (v : Word) :
    (Instr.wrUnh .l (BitVec.ofNat 32 (c.ctrlAddr k)) v).wellFormed c = true := by
  have h := selectRow_wr_wellFormed c (n := .l) (BitVec.ofNat 32 (c.ctrlAddr k)) v.isLt
  rwa [selectRow, writeTarget_ctrlAddr hc k] at h

end

/-- Settles O7: each frame encodes the instruction that its clause names, which is well-formed. -/
theorem pseudoInstructionsSelectRows : Obligations.PseudoInstructionsSelectRows := by
  intro c hc
  refine ⟨fun r hr => ⟨?_, ?_, fun bits hbits => ⟨?_, ?_⟩⟩, ?_, fun i => ⟨?_, fun v => ?_⟩, fun f => ?_,
    fun k v => ?_, fun code => ⟨?_, ?_⟩⟩
  · exact decodeOfEncode c (.rdPend _ _) hc (decide_eq_true (pendAddr_has hc hr))
  · exact decodeOfEncode c (.rdMask _ _) hc (decide_eq_true (maskAddr_has hc hr))
  · exact decodeOfEncode c (.wrPend _ _ _) hc (decide_eq_true ⟨pendAddr_has hc hr, hbits⟩)
  · exact decodeOfEncode c (.wrMask _ _ _) hc (decide_eq_true ⟨maskAddr_has hc hr, hbits⟩)
  · exact decodeOfEncode c (.rdKbd _ _) hc (decide_eq_true (kbdAddr_toNat hc))
  · exact decodeOfEncode c (.rdTmr _ _) hc (wellFormed_rdTmr_index hc i)
  · exact decode_frame_of_wellFormed hc (by split_ifs <;> rfl) (wellFormed_wr_index hc i v)
  · exact decode_frame_of_wellFormed hc (by split_ifs <;> rfl) (wellFormed_rd_rtcOff hc f)
  · exact decodeOfEncode c (.wrUnh _ _ _) hc (wellFormed_wrUnh_ctrlAddr hc k v)
  · exact decodeOfEncode c (.key code true) hc rfl
  · exact decodeOfEncode c (.key code false) hc rfl

/-- Settles O5: each line is assembled and its frame computed. -/
theorem workedEncodings : Obligations.WorkedEncodings := by
  unfold Obligations.WorkedEncodings
  decide

/-- Settles O6: each frame is decoded by computation. -/
theorem framesDecodeAsWritten : Obligations.FramesDecodeAsWritten := by
  unfold Obligations.FramesDecodeAsWritten
  decide

end Sys2Proof.Machine
end

section
/-! PROOF. Bus access (spec/40_bus_access.md R80-R93): what the RD and WR rows answer on the addresses that select them,
and the frames of the rows and commands that write. -/

namespace Sys2Proof

/- The row an address selects, and the register or counter it names. -/

theorem Config.pendWindow_has_of_register {c : Config} {a r : Nat} (hr : r < c.ngroups) (h : a = c.icrPendBase + r) :
    c.pendWindow.Has a := by
  rw [Config.pendWindow_has]
  omega

theorem Config.maskWindow_has_of_register {c : Config} {a r : Nat} (hr : r < c.ngroups) (h : a = c.icrMaskBase + r) :
    c.maskWindow.Has a := by
  rw [Config.maskWindow_has]
  omega

namespace Machine

section
variable {c : Config} {addr : Word}

theorem pendIndex_of_register {r : Nat} (h : addr.toNat = c.icrPendBase + r) : pendIndex c addr = r := by
  rw [pendIndex, h, Nat.add_sub_cancel_left]

theorem maskIndex_of_register {r : Nat} (h : addr.toNat = c.icrMaskBase + r) : maskIndex c addr = r := by
  rw [maskIndex, h, Nat.add_sub_cancel_left]

theorem timerIndex_of_index {i : Fin 5} (h : addr.toNat = c.timerBase + 8 * i.val) : timerIndex c addr = i :=
  Config.timerIndex_of_index h

/-- R88: an address that selects WR.TMR is the address of the counter it names. -/
theorem toNat_of_writeTarget_tmr (h : writeTarget c addr = .tmr) :
    addr.toNat = c.timerBase + 8 * (timerIndex c addr).val := by
  by_cases hw : c.TimerWritableAt addr.toNat
  · exact Config.index_of_timerAligned hw.1
  · rw [writeTarget, if_neg hw] at h
    split at h
    · nomatch h
    · split at h <;> nomatch h

end

/- Stores. -/

/-- Settles O32: the address selects WR.UNH, and MemWrite stores the bytes. -/
theorem wrUnhStoresToMemory : Obligations.WrUnhStoresToMemory := by
  intro s n addr v hc hm hw hfit
  obtain ⟨-, -, -, hunh⟩ := writeTarget_of_wellFormed hc n addr v
  refine ⟨_, execWrUnh_next.mpr ⟨hunh hw, hfit, rfl⟩, rfl, fun k hk => ?_, fun a ha => ?_⟩
  · simp only [pow_mul]
    exact readByte_memWrite_inside hm s.cfg.byteOrder hfit v.toNat hk
  · exact readByte_memWrite_outside hm s.cfg.byteOrder hfit v.toNat ha

/- Frames. -/

/-- R5: performing an instruction takes no frame from the queue and adds none. -/
theorem exec_keeps_queue {s t : State} {i : Instr} (h : exec i s = .next t) : t.queue = s.queue := by
  cases i with
  | rdPend n addr => obtain ⟨-, rfl⟩ := (execRdPend_next (n := n)).mp h; rfl
  | rdMask n addr => obtain ⟨-, rfl⟩ := (execRdMask_next (n := n)).mp h; rfl
  | rdKbd n addr => obtain ⟨-, rfl⟩ := (execRdKbd_next (n := n)).mp h; rfl
  | rdTmr n addr => obtain ⟨-, rfl⟩ := execRdTmr_next.mp h; rfl
  | rdTmrna n addr => obtain ⟨-, -, rfl⟩ := execRdTmrna_next.mp h; rfl
  | rdRtc n addr => obtain ⟨-, -, rfl⟩ := execRdRtc_next.mp h; rfl
  | rdMem n addr => obtain ⟨-, -, rfl⟩ := execRdMem_next.mp h; rfl
  | wrPend n addr v => obtain ⟨-, rfl⟩ := (execWrPend_next (n := n)).mp h; rfl
  | wrMask n addr v => obtain ⟨-, rfl⟩ := (execWrMask_next (n := n)).mp h; rfl
  | wrTmr n addr v => obtain ⟨-, rfl⟩ := execWrTmr_next.mp h; rfl
  | wrUnh n addr v => obtain ⟨-, -, rfl⟩ := execWrUnh_next.mp h; rfl
  | adv cycles frames => obtain rfl := execAdv_next.mp h; rfl
  | key code down => obtain ⟨-, rfl⟩ | ⟨idx, -, rfl⟩ := execKey_next.mp h <;> rfl
  | ack level => obtain rfl | ⟨r, b, -, rfl⟩ := execAck_next h <;> rfl
  | poll => obtain rfl := execPoll_next.mp h; rfl
  | raise r b => obtain ⟨-, rfl⟩ := execRaise_next.mp h; rfl
  | reset => obtain rfl := execReset_next.mp h; rfl

section
variable {s t : State} {i : Instr}

theorem Effect.readByte_mem (e : Effect s i t) (h : memAfter s i = s.mem) (a : Nat) :
    readByte t.mem a = readByte s.mem a := by
  rw [e.mem, h]

theorem Effect.clock_draws (e : Effect s i t) (h : clockAfter s i = (s.clock, s.draws)) :
    t.clock = s.clock ∧ t.draws = s.draws :=
  Prod.mk.inj (e.clock.trans h)

end

/-- A write to one byte of a bank leaves the others. -/
theorem bankByte_set_of_ne (bank : List Byte) {r r' : Nat} (x : Byte) (h : r' ≠ r) :
    bankByte (bank.set r x) r' = bankByte bank r' := by
  rw [bankByte_set, if_neg fun hr => h hr.1.symm]

/-- R144: KEY, taken or not, leaves every pending byte but SUPERIO's. -/
theorem bankByte_pendAfter_key (s : State) (code : Word) (down : Bool) {r : Nat} (hr : r ≠ s.cfg.groupIndex.superIO) :
    bankByte (pendAfter s (.key code down)) r = bankByte s.pend r := by
  rw [pendAfter_key]
  cases takenKey s.cfg code with
  | none => rfl
  | some idx => exact bankByte_set_of_ne _ _ hr

/-- Settles O55: RD.KBD leaves the pending bank, and KEY leaves all of it but one byte. -/
theorem keyboardCommandsFrame : Obligations.KeyboardCommandsFrame := by
  intro s t i n addr code down hi h
  have e := exec_effect h
  have hqueue := exec_keeps_queue h
  obtain rfl | rfl := hi
  · obtain ⟨hclock, hdraws⟩ := e.clock_draws rfl
    have hpend : t.pend = s.pend := e.pend
    exact ⟨e.cfg, e.mask, e.timer, e.readByte_mem rfl, hqueue, hclock, hdraws, fun r _ => by rw [hpend], fun _ => hpend⟩
  · obtain ⟨hclock, hdraws⟩ := e.clock_draws rfl
    refine ⟨e.cfg, e.mask, e.timer, e.readByte_mem rfl, hqueue, hclock, hdraws, fun r hr => ?_, nofun⟩
    rw [e.pend]
    exact bankByte_pendAfter_key s code down hr

/-- R91: WR.TMR leaves every counter but the one at its address. -/
theorem get_timerAfter_wrTmr_of_ne {s : State} {n : Size} {addr v : Word} (hsel : writeTarget s.cfg addr = .tmr)
    {j : Fin 5} (hj : addr.toNat ≠ s.cfg.timerBase + 8 * j.val) :
    (timerAfter s (.wrTmr n addr v)).get j = s.timer.get j := by
  have hne : j ≠ timerIndex s.cfg addr := fun hj' => hj (hj' ▸ toNat_of_writeTarget_tmr hsel)
  rw [timerAfter_wrTmr, Five.get_set, if_neg hne]

/-- Settles O56: the commands write no byte of M and draw no reading, and each clause after these is about one command,
whose piece is written at one index. -/
theorem registerWritesFrame : Obligations.RegisterWritesFrame := by
  intro s t i n addr v b hi h
  have e := exec_effect h
  have hmem : memAfter s i = s.mem := by obtain rfl | rfl | rfl | rfl | rfl | rfl := hi <;> rfl
  have hinput : clockAfter s i = (s.clock, s.draws) := by obtain rfl | rfl | rfl | rfl | rfl | rfl := hi <;> rfl
  obtain ⟨hclock, hdraws⟩ := e.clock_draws hinput
  refine ⟨e.cfg, e.readByte_mem hmem, exec_keeps_queue h, hclock, hdraws, ?_, ?_, ?_, ?_, ?_, ?_⟩
  · intro hne
    obtain rfl | rfl | rfl | rfl | rfl | rfl := hi
    case inr.inr.inr.inr.inr => exact absurd rfl hne
    all_goals exact e.kbd
  · rintro rfl
    refine ⟨e.mask, e.timer, fun r hr => ?_⟩
    rw [e.pend]
    exact bankByte_set_of_ne _ _ hr
  · rintro rfl
    refine ⟨e.pend, e.timer, fun r hr => ?_⟩
    rw [e.mask]
    exact bankByte_set_of_ne _ _ hr
  · rintro rfl
    refine ⟨e.pend, e.mask, fun j hj => ?_⟩
    rw [e.timer]
    exact get_timerAfter_wrTmr_of_ne (execWrTmr_next.mp h).1 hj
  · rintro rfl
    refine ⟨e.mask, e.timer, fun r hr => ?_⟩
    rw [e.pend]
    exact bankByte_set_of_ne _ _ hr
  · rintro rfl
    exact ⟨e.pend, e.mask⟩

/-- R150: a snapshot leaves every byte of M but the seven RTC bytes. -/
theorem readByte_snapshot_outside {c : Config} (hc : c.accepted = true) (t : WallClock) {m : Memory} (h : m.wf = true)
    {x : Nat} (hx : ∀ f, x ≠ c.rtcOff.get f) : readByte (snapshot c t m) x = readByte m x := by
  have key : (snapshot c t m).wf = true ∧ readByte (snapshot c t m) x = readByte m x := by
    refine List.foldlRecOn (motive := fun m' => m'.wf = true ∧ readByte m' x = readByte m x) _ _ ⟨h, rfl⟩ ?_
    rintro m' ⟨hwf, hread⟩ f -
    exact ⟨writeByte_wf hwf (Config.rtcOff_lt hc f) _, by rw [readByte_writeByte hwf, if_neg (hx f), hread]⟩
  exact key.2

/-- Settles O57: both rows leave the block's own state, RD.RTC the bytes outside the snapshot, and WR.UNH those outside
the store. -/
theorem memoryWritesFrame : Obligations.MemoryWritesFrame := by
  intro s t i n addr v hc hm hi h
  have e := exec_effect h
  have hqueue := exec_keeps_queue h
  obtain rfl | rfl := hi
  · refine ⟨e.cfg, e.pend, e.mask, e.timer, e.kbd, hqueue, nofun, fun _ a ha => ?_⟩
    rw [e.mem]
    exact readByte_snapshot_outside hc s.nextReading hm ha
  · obtain ⟨hclock, hdraws⟩ := e.clock_draws rfl
    obtain ⟨-, hfit, -⟩ := execWrUnh_next.mp h
    refine ⟨e.cfg, e.pend, e.mask, e.timer, e.kbd, hqueue, fun _ => ⟨hclock, hdraws, fun a ha => ?_⟩, nofun⟩
    rw [e.mem]
    exact readByte_memWrite_outside hm s.cfg.byteOrder hfit v.toNat ha

/- Reads. -/

/-- Settles O19: the pending window is tested first, and the offset of the address in it is the register. -/
theorem rdPendReturnsByte : Obligations.RdPendReturnsByte := by
  intro s n addr r hr ha
  have hsel : readTarget s.cfg addr = .pend := if_pos (Config.pendWindow_has_of_register hr ha)
  refine (execRdPend_next (n := n)).mpr ⟨hsel, ?_⟩
  rw [pendIndex_of_register ha]
  rfl

/-- Settles O20: the address selects RD.MASK, and its offset in the mask window is the register. -/
theorem rdMaskReturnsByte : Obligations.RdMaskReturnsByte := by
  intro s n addr r hc hr ha
  obtain ⟨-, hmask, -⟩ := readTarget_of_wellFormed hc n addr
  have hsel := hmask (decide_eq_true (Config.maskWindow_has_of_register hr ha))
  refine (execRdMask_next (n := n)).mpr ⟨hsel, ?_⟩
  rw [maskIndex_of_register ha]
  rfl

/-- Settles O21: KBD_ADDR selects RD.KBD. -/
theorem rdKbdReadsAndClears : Obligations.RdKbdReadsAndClears := by
  intro s n addr hc ha
  obtain ⟨-, -, hkbd, -⟩ := readTarget_of_wellFormed hc n addr
  exact (execRdKbd_next (n := n)).mpr ⟨hkbd (decide_eq_true ha), rfl⟩

/-- Settles O22: the address of counter i is aligned, so it selects RD.TMR of counter i. -/
theorem rdTmrReturnsCounter : Obligations.RdTmrReturnsCounter := by
  intro s n addr i hc ha
  obtain ⟨-, -, -, htmr, -⟩ := readTarget_of_wellFormed hc n addr
  have hsel := htmr (decide_eq_true (Config.timerAligned_of_index ha))
  refine execRdTmr_next.mpr ⟨hsel, ?_⟩
  rw [timerData, timerIndex_of_index ha]
  rfl

/-- Settles O23: each row selects its address, and the access fits. -/
theorem plainReadsReturnMemory : Obligations.PlainReadsReturnMemory := by
  intro s n addr i hi hc hw hfit
  obtain ⟨-, -, -, -, htmrna, -, hmem⟩ := readTarget_of_wellFormed hc n addr
  obtain rfl | rfl := hi
  · exact execRdTmrna_next.mpr ⟨htmrna hw, hfit, rfl⟩
  · exact execRdMem_next.mpr ⟨hmem hw, hfit, rfl⟩

/- Writes. -/

/-- Settles O29: the pending window is tested first, and the offset of the address in it is the register. -/
theorem wrPendClearsBits : Obligations.WrPendClearsBits := by
  intro s n addr v r hr ha
  have hsel : writeTarget s.cfg addr = .pend := if_pos (Config.pendWindow_has_of_register hr ha)
  refine (execWrPend_next (n := n)).mpr ⟨hsel, ?_⟩
  rw [pendIndex_of_register ha]
  rfl

/-- Settles O30: which row an address selects depends on neither the size nor the value, so the row is that of a WR of
four bytes, which every value fits. -/
theorem wrMaskReplacesByte : Obligations.WrMaskReplacesByte := by
  intro s n addr v r hc hr ha
  have hfits : Size.l.Holds v := v.isLt
  obtain ⟨-, hmask, -, -⟩ := writeTarget_of_wellFormed hc .l addr v
  have hsel := hmask (decide_eq_true ⟨Config.maskWindow_has_of_register hr ha, hfits⟩)
  refine (execWrMask_next (n := n)).mpr ⟨hsel, ?_⟩
  rw [maskIndex_of_register ha]
  rfl

/-- Settles O31: the address of counter i selects WR.TMR of counter i, and the value fits its n bytes already. -/
theorem wrTmrReplacesCounter : Obligations.WrTmrReplacesCounter := by
  intro s n addr v i hc ha hwritable hv
  have hindex := timerIndex_of_index ha
  obtain ⟨-, -, htmr, -⟩ := writeTarget_of_wellFormed hc n addr v
  have hat : s.cfg.TimerWritableAt addr.toNat :=
    ⟨Config.timerAligned_of_index ha, by rwa [Config.timerIndex_of_index ha]⟩
  refine ⟨_, execWrTmr_next.mpr ⟨htmr (decide_eq_true ⟨hat, hv⟩), rfl⟩, rfl, fun j => ?_⟩
  rw [State.respondHandled_timer, State.setTimer_timer, Five.get_set, hindex, trunc, trunc, Nat.mod_eq_of_lt hv]

/-- Settles O34: each of the four rows responds with its own constant. -/
theorem handledExactly : Obligations.HandledExactly := by
  intro s t i n addr v hi h
  obtain rfl | rfl | rfl | rfl := hi
  · obtain ⟨-, rfl⟩ := (execWrPend_next (n := n)).mp h
    exact iff_of_true rfl (.inl rfl)
  · obtain ⟨-, rfl⟩ := (execWrMask_next (n := n)).mp h
    exact iff_of_true rfl (.inr (.inl rfl))
  · obtain ⟨-, rfl⟩ := execWrTmr_next.mp h
    exact iff_of_true rfl (.inr (.inr rfl))
  · obtain ⟨-, -, rfl⟩ := execWrUnh_next.mp h
    exact iff_of_false Bool.false_ne_true (by simp)

end Machine

end Sys2Proof
end

section
/-! PROOF. The interrupt arbiter (spec/41_interrupt_arbiter.md): the level POLL reports, the vector ACK answers, and the
pending bit RAISE sets. -/

namespace Sys2Proof

/-- R8: a level of an accepted configuration names one group. -/
theorem Config.levelOfGroup_injective {c : Config} (h : c.accepted = true) {g g' : Group}
    (e : c.levelOfGroup.get g = c.levelOfGroup.get g') : g = g' :=
  List.inj_on_of_nodup_map (Config.levelsOk h).1 (Group.mem_all g) (Group.mem_all g') e

/-- R8: no group of an accepted configuration has the level that names no group. -/
theorem Config.levelOfGroup_ne_noneLevel {c : Config} (h : c.accepted = true) (g : Group) :
    c.levelOfGroup.get g ≠ c.noneLevel :=
  (Config.levelsOk h).2.1 g (Group.mem_all g)

namespace Machine

/- The level of the highest-ranked active group (R111, R112). -/

section
variable {s : State} {g : Group} {gs : List Group}

theorem highestAmong_cons_of_active (h : GroupActive s g) : highestAmong s (g :: gs) = s.cfg.levelOfGroup.get g :=
  if_pos h

theorem highestAmong_cons_of_not_active (h : ¬ GroupActive s g) : highestAmong s (g :: gs) = highestAmong s gs :=
  if_neg h

end

/-- Among groups in rank order either none is active and no level is reported, or an active one's level is. -/
theorem highestAmong_cases (s : State) (gs : List Group) :
    (highestAmong s gs = s.cfg.noneLevel ∧ ∀ g ∈ gs, ¬ GroupActive s g) ∨
      ∃ g, GroupActive s g ∧ highestAmong s gs = s.cfg.levelOfGroup.get g := by
  induction gs with
  | nil => exact .inl ⟨rfl, fun _ hg => absurd hg List.not_mem_nil⟩
  | cons g gs ih =>
    by_cases hg : GroupActive s g
    · exact .inr ⟨g, hg, highestAmong_cons_of_active hg⟩
    · rw [highestAmong_cons_of_not_active hg, List.forall_mem_cons]
      exact ih.imp_left fun ⟨hnone, hrest⟩ => ⟨hnone, hg, hrest⟩

/-- The case split of R112 over all groups. -/
theorem irqLevel_cases (s : State) :
    (irqLevel s = s.cfg.noneLevel ∧ ∀ g, ¬ GroupActive s g) ∨
      ∃ g, GroupActive s g ∧ irqLevel s = s.cfg.levelOfGroup.get g :=
  (highestAmong_cases s Group.all).imp_left fun ⟨hnone, hall⟩ => ⟨hnone, fun g => hall g (Group.mem_all g)⟩

/-- Settles O43: the response is POLL's only effect, and the groups are tested one after the other in rank order. -/
theorem pollReportsHighest : Obligations.PollReportsHighest := by
  intro s
  refine ⟨execPoll_next.mpr rfl, fun hB => ?_, fun hB hA => ?_, fun hB hA hS => ?_, fun hB hA hS hT => ?_, fun h => ?_⟩
  · exact highestAmong_cons_of_active hB
  · exact (highestAmong_cons_of_not_active hB).trans (highestAmong_cons_of_active hA)
  · exact (highestAmong_cons_of_not_active hB).trans <| (highestAmong_cons_of_not_active hA).trans <|
      highestAmong_cons_of_active hS
  · exact (highestAmong_cons_of_not_active hB).trans <| (highestAmong_cons_of_not_active hA).trans <|
      (highestAmong_cons_of_not_active hS).trans (highestAmong_cons_of_active hT)
  · exact highestAmong_eq_noneLevel fun g _ => not_not.mp (h g)

/-- Settles O44: R8 keeps the levels of the groups apart from each other and from NONE_LEVEL, so the level tells which
case of R112 gave it. -/
theorem levelNamesActiveGroup : Obligations.LevelNamesActiveGroup := by
  intro s hc
  obtain ⟨hnone, hall⟩ | ⟨g, hg, hlevel⟩ := irqLevel_cases s
  · refine ⟨iff_of_true hnone hall, fun h => absurd hnone h, fun g' h' => ?_⟩
    exact absurd (h'.symm.trans hnone) (Config.levelOfGroup_ne_noneLevel hc g')
  · have hne : irqLevel s ≠ s.cfg.noneLevel := hlevel ▸ Config.levelOfGroup_ne_noneLevel hc g
    refine ⟨iff_of_false hne fun hall => hall g hg, fun _ => ⟨g, hg, hlevel⟩, fun g' h' => ?_⟩
    obtain rfl := Config.levelOfGroup_injective hc (hlevel.symm.trans h')
    exact hg

/- RAISE (R118). -/

/-- A pending bit that is set under its mask bit leaves every active byte as it was. -/
theorem activeByte_setPending_of_masked {s : State} {r b : Nat} (h : (bankByte s.mask r).getLsbD b = true) (r' : Nat) :
    activeByte (s.setPending r b) r' = activeByte s r' := by
  apply BitVec.eq_of_getLsbD_eq
  intro b' hb'
  rw [activeByte, activeByte, BitVec.getLsbD_and, BitVec.getLsbD_and, getLsbD_setPending, State.setPending_mask,
    BitVec.getLsbD_not]
  by_cases hline : r' = r ∧ b' = b
  · obtain ⟨rfl, rfl⟩ := hline
    simp [h]
  · have hother : ¬ (r' = r ∧ b' = b ∧ r < s.pend.length ∧ b < 8) := fun hl => hline ⟨hl.1, hl.2.1⟩
    simp [hother]

theorem highestAmong_eq_of_activeByte {s t : State} (hc : s.cfg = t.cfg) (h : ∀ r, activeByte s r = activeByte t r)
    (gs : List Group) : highestAmong s gs = highestAmong t gs := by
  induction gs with
  | nil => rw [highestAmong, highestAmong, hc]
  | cons g gs ih => rw [highestAmong, highestAmong, ih, h, hc]

/-- R112: the active bytes, and the configuration, decide the level. -/
theorem irqLevel_eq_of_activeByte {s t : State} (hc : s.cfg = t.cfg) (h : ∀ r, activeByte s r = activeByte t r) :
    irqLevel s = irqLevel t :=
  highestAmong_eq_of_activeByte hc h Group.all

/-- Settles O46: the bit RAISE sets stays out of the active byte of its group. -/
theorem maskedRaiseIsSilent : Obligations.MaskedRaiseIsSilent := by
  intro s t r b hmask h
  obtain ⟨-, rfl⟩ := execRaise_next.mp h
  calc irqLevel (s.setPending r.toNat b.toNat).respondNone = irqLevel (s.setPending r.toNat b.toNat) :=
        irqLevel_respond _ _
    _ = irqLevel s := irqLevel_eq_of_activeByte rfl (activeByte_setPending_of_masked hmask)

/-- Settles O51: RAISE tests the group index and then sets the bit. -/
theorem raiseSetsBit : Obligations.RaiseSetsBit := by
  intro s r b
  exact ⟨fun hr => execRaise_next.mpr ⟨hr, rfl⟩, fun hr => if_neg (Nat.not_lt.mpr hr)⟩

/- ACK (R114-R117): its three cases. -/

section
variable {s : State} {level : Word} {r b : Nat}

/-- R115. -/
theorem execAck_of_index_out_of_range
    (h : s.cfg.regIndexOfLevel level.toNat < 0 ∨ (s.cfg.ngroups : Int) ≤ s.cfg.regIndexOfLevel level.toNat) :
    execAck level s = .next s.respondSentinel :=
  if_pos h

/-- R114: with the index in range the scanned byte decides the answer. -/
theorem execAck_of_index (hi : s.cfg.regIndexOfLevel level.toNat = (r : Int)) (hr : r < s.cfg.ngroups) :
    execAck level s =
      if scannedByte s r = 0 then .next s.respondSentinel
      else .next (s.respondVector (vectorNumber s.cfg r (lsb (scannedByte s r)))) := by
  simp only [execAck, hi, Int.toNat_natCast]
  exact if_neg (by omega)

/-- R116. -/
theorem execAck_of_scannedByte_zero (hi : s.cfg.regIndexOfLevel level.toNat = (r : Int)) (hr : r < s.cfg.ngroups)
    (hm : scannedByte s r = 0) : execAck level s = .next s.respondSentinel :=
  (execAck_of_index hi hr).trans (if_pos hm)

theorem execAck_of_scannedByte_ne_zero (hi : s.cfg.regIndexOfLevel level.toNat = (r : Int)) (hr : r < s.cfg.ngroups)
    (hm : scannedByte s r ≠ 0) :
    execAck level s = .next (s.respondVector (vectorNumber s.cfg r (lsb (scannedByte s r)))) :=
  (execAck_of_index hi hr).trans (if_neg hm)

theorem ne_zero_of_getLsbD {m : Byte} (h : m.getLsbD b = true) : m ≠ 0 := by
  rintro rfl
  simp at h

/-- A set bit with no set bit below it is the lowest set bit. -/
theorem lsb_eq {m : Byte} (hb : m.getLsbD b = true) (hlow : ∀ k < b, m.getLsbD k = false) : lsb m = b := by
  obtain ⟨-, hset, hbelow⟩ := lsb_spec (ne_zero_of_getLsbD hb)
  rcases Nat.lt_trichotomy (lsb m) b with hlt | heq | hgt
  · exact absurd (hlow _ hlt) (by simp [hset])
  · exact heq
  · exact absurd (hbelow b hgt) (by simp [hb])

/-- The vector of a register and a bit fits 32 bits (log entry 4). -/
theorem vectorNumber_toNat {c : Config} (hc : c.accepted = true) (hr : r < c.ngroups) (hb : b ≤ 7) :
    ∃ base, c.regBase[r]? = some base ∧ (vectorNumber c r b).toNat = base + b + 64 := by
  obtain ⟨⟨hlen, hfit⟩, -⟩ := Config.tablesOk hc
  have hr' : r < c.regBase.length := by omega
  refine ⟨c.regBase[r], List.getElem?_eq_getElem hr', ?_⟩
  have hbase := hfit _ (List.getElem_mem hr')
  rw [vectorNumber, List.getD_eq_getElem _ _ hr', BitVec.toNat_ofNat]
  exact Nat.mod_eq_of_lt (by omega)

end

/-- Settles O47: the range of the index is tested first. -/
theorem ackOutOfRange : Obligations.AckOutOfRange := by
  intro s level h
  exact execAck_of_index_out_of_range h

/-- Settles O48: the statement's byte is the scanned byte of register r. -/
theorem ackNoBitSet : Obligations.AckNoBitSet := by
  intro s level r hi hr hm
  exact execAck_of_scannedByte_zero hi hr hm

/-- Settles O49: bit b is what lsb answers for the scanned byte, and the sum fits the vector. -/
theorem ackNamesVector : Obligations.AckNamesVector := by
  intro s level r b m hc hi hr hm hb hlow
  have hscan : scannedByte s r = m := hm.symm
  have hlsb : lsb (scannedByte s r) = b := hscan ▸ lsb_eq hb hlow
  have hne : scannedByte s r ≠ 0 := hscan ▸ ne_zero_of_getLsbD hb
  obtain ⟨base, hbase, hv⟩ := vectorNumber_toNat hc hr (Nat.le_of_lt_succ (BitVec.lt_of_getLsbD hb))
  exact ⟨_, base, hlsb ▸ execAck_of_scannedByte_ne_zero hi hr hne, hbase, hv⟩

/-- Settles O50: of ACK's three cases two answer the sentinel, and the third the vector of a set bit. -/
theorem ackVectorsPossible : Obligations.AckVectorsPossible := by
  intro s t level hc h
  change execAck level s = .next t at h
  by_cases hrange : s.cfg.regIndexOfLevel level.toNat < 0 ∨ (s.cfg.ngroups : Int) ≤ s.cfg.regIndexOfLevel level.toNat
  · cases (execAck_of_index_out_of_range hrange).symm.trans h
    exact .inl rfl
  · obtain ⟨r, hi⟩ := Int.eq_ofNat_of_zero_le (a := s.cfg.regIndexOfLevel level.toNat) (by omega)
    have hr : r < s.cfg.ngroups := by omega
    by_cases hm : scannedByte s r = 0
    · cases (execAck_of_scannedByte_zero hi hr hm).symm.trans h
      exact .inl rfl
    · cases (execAck_of_scannedByte_ne_zero hi hr hm).symm.trans h
      have hb : lsb (scannedByte s r) ≤ 7 := Nat.le_of_lt_succ (lsb_spec hm).1
      obtain ⟨base, hbase, hv⟩ := vectorNumber_toNat hc hr hb
      exact .inr ⟨r, _, base, hr, hb, hbase, hv⟩

end Machine

end Sys2Proof
end

section
/-! PROOF. The timers (spec/42_timers.md): what one command adds to a counter, what a run of commands adds to it, and
the counters that share bit 16 of a control word. -/

namespace Sys2Proof

theorem Five.get_mem {α : Type} (f : Five α) (i : Fin 5) : f.get i ∈ [f.t0, f.t1, f.t2, f.t3, f.t4] := by
  fin_cases i <;> simp [Five.get]

theorem Config.get_mem_bit16 {c : Config} {i : Fin 5} (h : (c.timers.get i).enBit = 16) : c.timers.get i ∈ c.bit16 :=
  List.mem_filter.mpr ⟨c.timers.get_mem i, decide_eq_true h⟩

/-- R8, log entry 5: the counters of an accepted configuration enabled by bit 16 share one control word. -/
theorem Config.enWord_eq_of_bit16 {c : Config} (hc : c.accepted = true) {i j : Fin 5}
    (hi : (c.timers.get i).enBit = 16) (hj : (c.timers.get j).enBit = 16) :
    (c.timers.get i).enWord = (c.timers.get j).enWord := by
  obtain ⟨-, -, hsame⟩ := Config.enablesOk hc
  exact hsame _ (get_mem_bit16 hi) _ (get_mem_bit16 hj)

namespace Machine

/- One ADV. -/

section
variable {s : State} {i : Fin 5}

theorem advancedTimer_of_enabled (h : timerEnabled s i = true) (cycles frames : Word) :
    advancedTimer s cycles frames i =
      (s.timer.get i + sliceCount (s.cfg.timers.get i).kind cycles frames) % 2 ^ s.cfg.timerWidth :=
  if_pos h

theorem advancedTimer_of_not_enabled (h : timerEnabled s i = false) (cycles frames : Word) :
    advancedTimer s cycles frames i = s.timer.get i := by
  rw [advancedTimer, h]
  rfl

theorem timerEnabled_eq_of_bit16 {j : Fin 5} (hc : s.cfg.accepted = true) (hi : (s.cfg.timers.get i).enBit = 16)
    (hj : (s.cfg.timers.get j).enBit = 16) : timerEnabled s i = timerEnabled s j := by
  rw [timerEnabled, timerEnabled, hi, hj, Config.enWord_eq_of_bit16 hc hi hj]

end

/-- ADV completes in every state, with each counter as `advancedTimer` gives it. -/
theorem exec_adv_next (s : State) (cycles frames : Word) :
    ∃ t, exec (.adv cycles frames) s = .next t ∧
      t = { s with timer := t.timer, resp := Response.default s.cfg } ∧
      ∀ i, t.timer.get i = advancedTimer s cycles frames i :=
  ⟨_, execAdv_next.mpr rfl, rfl, Five.get_ofFn _⟩

/-- Settles O36: a counter after ADV is `advancedTimer`, which samples the enable bit from the control word in M. -/
theorem advAddsToEnabled : Obligations.AdvAddsToEnabled := by
  intro s cycles frames
  obtain ⟨t, hexec, hframe, htimer⟩ := exec_adv_next s cycles frames
  refine ⟨t, hexec, hframe, fun i => ?_⟩
  rw [htimer, advancedTimer]
  rfl

/-- Settles O39: two counters on bit 16 are on the same control word, so they are enabled together or not at all. -/
theorem sharedEnableAdvancesTogether : Obligations.SharedEnableAdvancesTogether := by
  intro s i j cycles frames hc hi hj
  obtain ⟨t, hexec, -, htimer⟩ := exec_adv_next s cycles frames
  have hsame := timerEnabled_eq_of_bit16 hc hi hj
  refine ⟨t, hexec, ?_⟩
  simp only [htimer]
  cases hen : timerEnabled s i with
  | true =>
    left
    rintro k (rfl | rfl)
    · exact advancedTimer_of_enabled hen cycles frames
    · exact advancedTimer_of_enabled (hsame ▸ hen) cycles frames
  | false =>
    exact .inr ⟨advancedTimer_of_not_enabled hen cycles frames,
      advancedTimer_of_not_enabled (hsame ▸ hen) cycles frames⟩

/- A run of commands. -/

theorem execAll_cons_next {s t : State} {k : Instr} {ks : List Instr} :
    execAll (k :: ks) s = .next t ↔ ∃ u, exec k s = .next u ∧ execAll ks u = .next t := by
  rw [execAll]
  cases exec k s <;> simp

theorem gained_cons {s u : State} {k : Instr} (h : exec k s = .next u) (i : Fin 5) (ks : List Instr) :
    gained i (k :: ks) s = gainOf i k s + gained i ks u := by
  rw [gained, h]

/-- An ADV at which the counter is not enabled gains it 0, and a counter in range is its own residue. -/
theorem advancedTimer_eq_add_gainOf {s : State} {i : Fin 5} (hlt : s.timer.get i < 2 ^ s.cfg.timerWidth)
    (cycles frames : Word) :
    advancedTimer s cycles frames i =
      (s.timer.get i + gainOf i (.adv cycles frames) s) % 2 ^ s.cfg.timerWidth := by
  rw [gainOf]
  cases hen : timerEnabled s i with
  | true => exact advancedTimer_of_enabled hen cycles frames
  | false => exact (advancedTimer_of_not_enabled hen cycles frames).trans (Nat.mod_eq_of_lt hlt).symm

/-- R132, R134: a command that does not write the counter changes it by its gain. -/
theorem get_timerAfter_eq_add_gainOf {s : State} {i : Fin 5} {k : Instr} (hlt : s.timer.get i < 2 ^ s.cfg.timerWidth)
    (hk : ¬ WritesCounter s.cfg i k) :
    (timerAfter s k).get i = (s.timer.get i + gainOf i k s) % 2 ^ s.cfg.timerWidth := by
  cases k with
  | adv cycles frames =>
    rw [timerAfter_adv, Five.get_ofFn]
    exact advancedTimer_eq_add_gainOf hlt cycles frames
  | wrTmr n addr v =>
    have hne : i ≠ timerIndex s.cfg addr := fun h => hk (.inr ⟨n, addr, v, rfl, h.symm⟩)
    rw [timerAfter_wrTmr, Five.get_set, if_neg hne]
    exact (Nat.mod_eq_of_lt hlt).symm
  | reset => exact absurd (.inl rfl) hk
  | _ => exact (Nat.mod_eq_of_lt hlt).symm

/-- Settles O37, by induction on the commands: each adds its gain modulo 2^TIMER_WIDTH and keeps the counter in
range. -/
theorem counterAccumulates : Obligations.CounterAccumulates := by
  intro s t ks i hlt hrun hfree
  induction ks generalizing s with
  | nil =>
    cases hrun
    exact (Nat.mod_eq_of_lt hlt).symm
  | cons k ks ih =>
    obtain ⟨u, hexec, hrest⟩ := execAll_cons_next.mp hrun
    obtain ⟨hk, hks⟩ := List.forall_mem_cons.mp hfree
    have e := exec_effect hexec
    have hu : u.timer.get i = (s.timer.get i + gainOf i k s) % 2 ^ s.cfg.timerWidth := by
      rw [e.timer, get_timerAfter_eq_add_gainOf hlt hk]
    have hu_lt : u.timer.get i < 2 ^ u.cfg.timerWidth := by
      rw [hu, e.cfg]
      exact trunc_lt _ _
    have hks' : ∀ k' ∈ ks, ¬ WritesCounter u.cfg i k' := by rwa [e.cfg]
    calc t.timer.get i = (u.timer.get i + gained i ks u) % 2 ^ u.cfg.timerWidth := ih u hu_lt hrest hks'
      _ = (s.timer.get i + gainOf i k s + gained i ks u) % 2 ^ s.cfg.timerWidth := by
        rw [hu, e.cfg, Nat.mod_add_mod]
      _ = (s.timer.get i + gained i (k :: ks) s) % 2 ^ s.cfg.timerWidth := by
        rw [gained_cons hexec, Nat.add_assoc]

end Machine

end Sys2Proof
end

section
/-! PROOF. The keyboard (spec/43_keyboard.md): the entry of the scan table a KEY takes, the event byte it leaves in the
slot, and what the next reads of the slot see. -/

namespace Sys2Proof.Machine

open Sys2Proof

/- The key number (R141, R146). -/

section
variable {c : Config} {code : Word} {idx : Nat}

/-- R141: the code's key number is the index where the code first stands in the table. -/
theorem scanLookup_eq_some (hat : c.scanTable[idx]? = some (some code))
    (hfirst : ∀ j < idx, c.scanTable[j]? ≠ some (some code)) : scanLookup c code = some idx := by
  obtain ⟨hidx, hentry⟩ := List.getElem?_eq_some_iff.mp hat
  refine List.findIdx?_eq_some_iff_getElem.mpr ⟨hidx, beq_iff_eq.mpr hentry, fun j hj hsame => hfirst j hj ?_⟩
  rw [List.getElem?_eq_getElem (hj.trans hidx), beq_iff_eq.mp hsame]

/-- R146: a code that no entry of the table equals has no key number. -/
theorem scanLookup_eq_none (h : ∀ j : Nat, c.scanTable[j]? ≠ some (some code)) : scanLookup c code = none := by
  refine List.findIdx?_eq_none_iff.mpr fun entry hmem => beq_eq_false_iff_ne.mpr ?_
  rintro rfl
  obtain ⟨j, hj⟩ := List.getElem?_of_mem hmem
  exact h j hj

theorem takenKey_of_debugKey (h : c.debugKey code = true) : takenKey c code = none :=
  if_pos h

theorem takenKey_of_not_debugKey (h : c.debugKey code = false) : takenKey c code = scanLookup c code := by
  rw [takenKey, h]
  rfl

/-- R141: the number of a key that is taken is the one the table gives its code. -/
theorem scanLookup_of_takenKey (h : takenKey c code = some idx) : scanLookup c code = some idx := by
  cases hd : c.debugKey code with
  | true => exact nomatch (takenKey_of_debugKey hd).symm.trans h
  | false => exact (takenKey_of_not_debugKey hd).symm.trans h

/-- R8: a key number has seven bits. -/
theorem index_lt_of_scanTable {e : Option Word} (hc : c.accepted = true) (h : c.scanTable[idx]? = some e) :
    idx < 128 :=
  (List.getElem?_eq_some_iff.mp h).1.trans_le (Config.scanTable_length hc)

end

/-- R142: the event byte is the key number, with 128 added for a release. -/
theorem eventByte_eq {idx : Nat} (h : idx < 128) (down : Bool) :
    eventByte down idx = BitVec.ofNat 8 ((if down then 0 else 128) + idx) := by
  apply BitVec.eq_of_toNat_eq
  rw [eventByte, BitVec.toNat_append, BitVec.toNat_ofNat, Nat.mod_eq_of_lt h, ← Nat.shiftLeft_add_eq_or_of_lt h,
    BitVec.toNat_ofNat]
  cases down with
  | true => exact (Nat.mod_eq_of_lt (show 0 + idx < 256 by omega)).symm
  | false => exact (Nat.mod_eq_of_lt (show 128 + idx < 256 by omega)).symm

/-- Settles O40: the code passes the filter and the table names idx, whose event byte has room for the release bit. -/
theorem keyTaken : Obligations.KeyTaken := by
  intro s code down idx hc hpass hat hfirst
  have hidx := index_lt_of_scanTable hc hat
  have hkey := (takenKey_of_not_debugKey hpass).trans (scanLookup_eq_some hat hfirst)
  refine ⟨execKey_next.mpr (.inr ⟨idx, hkey, ?_⟩), hidx⟩
  rw [takeKey, eventByte_eq hidx]
  rfl

/-- Settles O41: no key is taken, by the filter or for want of an entry. -/
theorem keyIgnored : Obligations.KeyIgnored := by
  intro s code down h
  have hnone : takenKey s.cfg code = none := by
    cases hd : s.cfg.debugKey code with
    | true => exact takenKey_of_debugKey hd
    | false =>
      have hunmapped := h.resolve_left (Bool.eq_false_iff.mp hd)
      exact (takenKey_of_not_debugKey hd).trans (scanLookup_eq_none hunmapped)
  exact execKey_next.mpr (.inl ⟨hnone, rfl⟩)

/-- R143, R145: a KEY that signals was taken, and the slot holds its event byte. -/
theorem kbd_of_signalling_key {s t : State} {code : Word} {down : Bool} (h : exec (.key code down) s = .next t)
    (hsig : t.resp.signals ≠ []) : ∃ idx, scanLookup s.cfg code = some idx ∧ t.kbd = eventByte down idx := by
  obtain ⟨-, rfl⟩ | ⟨idx, hkey, rfl⟩ := execKey_next.mp h
  · exact absurd rfl hsig
  · exact ⟨idx, scanLookup_of_takenKey hkey, rfl⟩

/-- Settles O42: the second KEY overwrites the slot whatever the first left there, and each read of the slot answers
it and clears it. -/
theorem secondKeyHidesFirst : Obligations.SecondKeyHidesFirst := by
  intro s t u c1 c2 d1 d2 n m addr hc ha h1 h2 hsig
  have ht : t.cfg = s.cfg := (exec_effect h1).cfg
  have hu : u.cfg = s.cfg := (exec_effect h2).cfg.trans ht
  obtain ⟨idx, hidx, hkbd⟩ := kbd_of_signalling_key h2 hsig
  have hcu : u.cfg.accepted = true := hu ▸ hc
  have hau : addr.toNat = u.cfg.kbdAddr := hu ▸ ha
  refine ⟨idx, _, _, ht ▸ hidx, rdKbdReadsAndClears u n addr hcu hau, ?_, rdKbdReadsAndClears _ m addr hcu hau, rfl⟩
  rw [← hkbd]

end Sys2Proof.Machine
end

section
/-! PROOF. The real-time clock (spec/44_rtc.md R150-R153): the digits of a BCD byte, the byte that a snapshot leaves at
each address of M, and what RD.RTC answers. -/

namespace Sys2Proof.Machine

open Sys2Proof

/- BCD bytes (R152). -/

/-- R152: the tens digit stands over the four bits of the units digit. -/
theorem bcd_toNat {v : Nat} (h : v ≤ 99) : (bcd v).toNat = 16 * (v / 10) + v % 10 := by
  have hunits : v % 10 < 2 ^ 4 := by omega
  rw [bcd, BitVec.toNat_ofNat, ← Nat.shiftLeft_add_eq_or_of_lt hunits, Nat.shiftLeft_eq]
  omega

/-- Settles O27: each digit fits its four bits. -/
theorem bcdDigits : Obligations.BcdDigits := by
  intro v hv
  rw [bcd_toNat hv]
  omega

/- The values of the fields (R151, R153). -/

theorem hourEnc_of_h24 {c : Config} (h : c.hourMode = .h24) (hour : Fin 24) : hourEnc c hour = hour.val := by
  rw [hourEnc, h]

theorem hourEnc_le (c : Config) (hour : Fin 24) : hourEnc c hour ≤ 99 := by
  unfold hourEnc
  split <;> omega

theorem getD_le {codes : List Nat} {bound : Nat} (h : ∀ v ∈ codes, v ≤ bound) (k : Nat) : codes.getD k 0 ≤ bound := by
  by_cases hk : k < codes.length
  · rw [List.getD_eq_getElem _ _ hk]
    exact h _ (List.getElem_mem hk)
  · rw [List.getD_eq_default _ _ (Nat.not_lt.mp hk)]
    exact Nat.zero_le bound

/-- R152: every value of a snapshot has two decimal digits (log entries 4 and 6). -/
theorem rtcValue_le {c : Config} (hc : c.accepted = true) (t : WallClock) (f : RtcField) : rtcValue c t f ≤ 99 := by
  obtain ⟨-, ⟨-, hwday⟩, -, hmon⟩ := Config.tablesOk hc
  cases f with
  | sec => exact Nat.le_of_lt_succ (t.sec.isLt.trans (by decide))
  | min => exact Nat.le_of_lt_succ (t.min.isLt.trans (by decide))
  | hour => exact hourEnc_le c t.hour
  | day => exact (Nat.succ_le_of_lt t.mdayPred.isLt).trans (by decide)
  | wday => exact getD_le hwday _
  | mon => exact getD_le hmon _
  | year => exact Nat.le_of_lt_succ (Nat.mod_lt _ (by decide))

/- The snapshot (R150). -/

/-- The byte at address a after the fields of a list are written in order, where b stood before. -/
def fieldByte (c : Config) (t : WallClock) (a : Nat) (b : Byte) (fs : List RtcField) : Byte :=
  fs.foldl (fun b f => if a = c.rtcOff.get f then bcd (rtcValue c t f) else b) b

theorem fieldByte_append_singleton (c : Config) (t : WallClock) (a : Nat) (b : Byte) (fs : List RtcField)
    (f : RtcField) :
    fieldByte c t a b (fs ++ [f]) = if a = c.rtcOff.get f then bcd (rtcValue c t f) else fieldByte c t a b fs := by
  simp only [fieldByte, List.foldl_append, List.foldl_cons, List.foldl_nil]

/-- The byte of a field that is written is the BCD of a field, its own or a later one with the same address. -/
theorem exists_fieldByte_eq_bcd (c : Config) (t : WallClock) (b : Byte) {fs : List RtcField} {f : RtcField}
    (hf : f ∈ fs) : ∃ g, fieldByte c t (c.rtcOff.get f) b fs = bcd (rtcValue c t g) := by
  induction fs using List.reverseRecOn with
  | nil => exact absurd hf List.not_mem_nil
  | append_singleton fs g ih =>
    rw [fieldByte_append_singleton]
    split_ifs with hg
    · exact ⟨g, rfl⟩
    · have hne : f ≠ g := fun h => hg (h ▸ rfl)
      exact ih ((List.mem_append.mp hf).resolve_right fun h => hne (List.mem_singleton.mp h))

/-- R150: M after a snapshot, at every address. -/
theorem readByte_snapshot {c : Config} (hc : c.accepted = true) (t : WallClock) {m : Memory} (hm : m.wf = true)
    (a : Nat) : readByte (snapshot c t m) a = fieldByte c t a (readByte m a) RtcField.all := by
  have hread : (snapshot c t m).wf = true ∧
      readByte (snapshot c t m) a = fieldByte c t a (readByte m a) RtcField.all := by
    refine List.foldl_rel (r := fun m' b => m'.wf = true ∧ readByte m' a = b) ⟨hm, rfl⟩ ?_
    rintro f - m' b ⟨hwf, rfl⟩
    exact ⟨writeByte_wf hwf (Config.rtcOff_lt hc f) _, readByte_writeByte hwf _ _ _⟩
  exact hread.2

/- RD.RTC. -/

theorem nextReading_of_clock_cons {s : State} {w : WallClock} {rest : List WallClock} (h : s.clock = w :: rest) :
    s.nextReading = w := by
  rw [State.nextReading, h]
  rfl

/-- Settles O26: the address selects RD.RTC and the access fits, and the fields are written from SEC to YEAR, so that a
later one decides a byte they share. -/
theorem rdRtcSnapshots : Obligations.RdRtcSnapshots := by
  intro s n addr hc hm hlow hhigh hfit
  obtain ⟨-, -, -, -, -, hrtc, -⟩ := readTarget_of_wellFormed hc n addr
  have hsel := hrtc (decide_eq_true ⟨hlow, hhigh⟩)
  refine ⟨_, execRdRtc_next.mpr ⟨hsel, hfit, rfl⟩, rfl, fun w rest => nextReading_of_clock_cons,
    fun h => hourEnc_of_h24 h _, ?_⟩
  exact readByte_snapshot hc s.nextReading hm

/-- Settles O28: each RTC byte holds the BCD of a field's value, which is at most 99. -/
theorem rtcBytesAreBcd : Obligations.RtcBytesAreBcd := by
  intro s t n addr f hc hm h
  obtain ⟨g, hg⟩ := exists_fieldByte_eq_bcd s.cfg s.nextReading (readByte s.mem (s.cfg.rtcOff.get f)) f.mem_all
  have hbyte : readByte t.mem (s.cfg.rtcOff.get f) = bcd (rtcValue s.cfg s.nextReading g) := by
    rw [(exec_effect h).mem, ← hg]
    exact readByte_snapshot hc s.nextReading hm _
  obtain ⟨htens, hunits, htens_le, hunits_le⟩ := bcdDigits _ (rtcValue_le hc s.nextReading g)
  rw [hbyte, htens, hunits]
  exact ⟨htens_le, hunits_le⟩

end Sys2Proof.Machine
end

section
/-! PROOF. Control (spec/45_control.md R160-R162): which frames complete and which are refused, the mark that a refused
frame leaves on a run, and RESET. -/

namespace Sys2Proof.Machine

open Sys2Proof

/- Instructions that complete (R162). -/

theorem fits_of_not_runsPastTop {i : Instr} {addr : Word} {n : Size} (h : ¬ RunsPastTop i)
    (haccess : memoryAccess i = some (addr, n)) : Fits addr.toNat n.bytes :=
  not_not.mp fun hfit => h ⟨addr, n, haccess, hfit⟩

theorem execKey_completes (code : Word) (down : Bool) (s : State) : ∃ t, execKey code down s = .next t := by
  cases hk : takenKey s.cfg code with
  | none => exact ⟨_, execKey_next.mpr (.inl ⟨hk, rfl⟩)⟩
  | some idx => exact ⟨_, execKey_next.mpr (.inr ⟨idx, hk, rfl⟩)⟩

theorem execAck_completes (level : Word) (s : State) : ∃ t, execAck level s = .next t := by
  simp only [execAck]
  split_ifs
  · exact ⟨_, rfl⟩
  · exact ⟨_, rfl⟩
  · exact ⟨_, rfl⟩

/-- R162: a well-formed instruction whose memory access, if it makes one, fits answers a next state. -/
theorem exec_completes {s : State} {i : Instr} (hc : s.cfg.accepted = true) (hw : i.wellFormed s.cfg = true)
    (h : ¬ RunsPastTop i) : ∃ t, exec i s = .next t := by
  cases i with
  | rdPend n addr =>
    obtain ⟨hpend, -, -, -, -, -, -⟩ := readTarget_of_wellFormed hc n addr
    exact ⟨_, (execRdPend_next (n := n)).mpr ⟨hpend hw, rfl⟩⟩
  | rdMask n addr =>
    obtain ⟨-, hmask, -, -, -, -, -⟩ := readTarget_of_wellFormed hc n addr
    exact ⟨_, (execRdMask_next (n := n)).mpr ⟨hmask hw, rfl⟩⟩
  | rdKbd n addr =>
    obtain ⟨-, -, hkbd, -, -, -, -⟩ := readTarget_of_wellFormed hc n addr
    exact ⟨_, (execRdKbd_next (n := n)).mpr ⟨hkbd hw, rfl⟩⟩
  | rdTmr n addr =>
    obtain ⟨-, -, -, htmr, -, -, -⟩ := readTarget_of_wellFormed hc n addr
    exact ⟨_, execRdTmr_next.mpr ⟨htmr hw, rfl⟩⟩
  | rdTmrna n addr =>
    obtain ⟨-, -, -, -, htmrna, -, -⟩ := readTarget_of_wellFormed hc n addr
    exact ⟨_, execRdTmrna_next.mpr ⟨htmrna hw, fits_of_not_runsPastTop h rfl, rfl⟩⟩
  | rdRtc n addr =>
    obtain ⟨-, -, -, -, -, hrtc, -⟩ := readTarget_of_wellFormed hc n addr
    exact ⟨_, execRdRtc_next.mpr ⟨hrtc hw, fits_of_not_runsPastTop h rfl, rfl⟩⟩
  | rdMem n addr =>
    obtain ⟨-, -, -, -, -, -, hmem⟩ := readTarget_of_wellFormed hc n addr
    exact ⟨_, execRdMem_next.mpr ⟨hmem hw, fits_of_not_runsPastTop h rfl, rfl⟩⟩
  | wrPend n addr v =>
    obtain ⟨hpend, -, -, -⟩ := writeTarget_of_wellFormed hc n addr v
    exact ⟨_, (execWrPend_next (n := n)).mpr ⟨hpend hw, rfl⟩⟩
  | wrMask n addr v =>
    obtain ⟨-, hmask, -, -⟩ := writeTarget_of_wellFormed hc n addr v
    exact ⟨_, (execWrMask_next (n := n)).mpr ⟨hmask hw, rfl⟩⟩
  | wrTmr n addr v =>
    obtain ⟨-, -, htmr, -⟩ := writeTarget_of_wellFormed hc n addr v
    exact ⟨_, execWrTmr_next.mpr ⟨htmr hw, rfl⟩⟩
  | wrUnh n addr v =>
    obtain ⟨-, -, -, hunh⟩ := writeTarget_of_wellFormed hc n addr v
    exact ⟨_, execWrUnh_next.mpr ⟨hunh hw, fits_of_not_runsPastTop h rfl, rfl⟩⟩
  | adv cycles frames => exact ⟨_, execAdv_next.mpr rfl⟩
  | key code down => exact execKey_completes code down s
  | ack level => exact execAck_completes level s
  | poll => exact ⟨_, execPoll_next.mpr rfl⟩
  | raise r b => exact ⟨_, execRaise_next.mpr ⟨of_decide_eq_true hw, rfl⟩⟩
  | reset => exact ⟨_, execReset_next.mpr rfl⟩

/-- Settles O12: the decoded instruction is well-formed, so it completes, and performing it keeps the queue that the
step left it. -/
theorem legalFrameCompletes : Obligations.LegalFrameCompletes := by
  intro s f rest i hc hq hd hfit
  obtain ⟨t, ht⟩ := exec_completes (s := { s with queue := rest }) hc (decodedIsWellFormed s.cfg f i hd) hfit
  exact ⟨t, (stepRunsDecoded s f rest i hc hq hd).trans ht, exec_keeps_queue ht⟩

/- Refusals (R161). -/

/-- R41, R161: running past the top is the one refusal of a well-formed instruction. -/
theorem exec_eq_refused_iff {s : State} {i : Instr} {x : Refusal} (hc : s.cfg.accepted = true)
    (hw : i.wellFormed s.cfg = true) : exec i s = .refused x ↔ RunsPastTop i ∧ x = .pastTop := by
  by_cases hpast : RunsPastTop i
  · simp [pastTopIsRefused s i hc hw hpast, hpast, eq_comm]
  · obtain ⟨t, ht⟩ := exec_completes hc hw hpast
    simp [ht, hpast]

/-- R66, R161: a frame is refused as illegal or for an access past the top. -/
theorem runFrame_eq_refused_iff {s : State} {f : Frame} {x : Refusal} (hc : s.cfg.accepted = true) :
    runFrame f s = .refused x ↔ (∃ e, decode s.cfg f = .error e ∧ x = .illegalFrame e) ∨
      ∃ i, decode s.cfg f = .ok i ∧ RunsPastTop i ∧ x = .pastTop := by
  cases hd : decode s.cfg f with
  | error e => simp [runFrame, hd, eq_comm]
  | ok i => simp [runFrame_of_decode_ok hd, exec_eq_refused_iff hc (decodedIsWellFormed s.cfg f i hd)]

/-- R183: a step with no frame waiting is idle. -/
theorem step_of_queue_nil {s : State} (hc : s.cfg.accepted = true) (hq : s.queue = []) : step s = .next s := by
  simp only [step, hc, State.takeFrame, hq, if_true]

/-- Settles O13: a step tests the configuration, is idle with no frame waiting, and else performs the next frame. -/
theorem stepRefusesExactly : Obligations.StepRefusesExactly := by
  intro s x
  cases hc : s.cfg.accepted with
  | false => simp [step_of_not_accepted hc, eq_comm]
  | true =>
    cases hq : s.queue with
    | nil => simp [step_of_queue_nil hc hq]
    | cons f rest =>
      have hrun := runFrame_eq_refused_iff (s := { s with queue := rest }) (f := f) (x := x) hc
      simp [step_of_queue_cons hc hq, hrun]

/- The mark of a run (R161). -/

theorem Run.feed_of_refused {r : Run} {f : Frame} {x : Refusal} (h : step (r.state.offer f) = .refused x) :
    r.feed f = { r with mark := r.mark.or (some x) } := by
  simp only [Run.feed, h]

theorem Run.feed_of_next {r : Run} {f : Frame} {s : State} (h : step (r.state.offer f) = .next s) :
    r.feed f = { r with state := s } := by
  simp only [Run.feed, h]

theorem Run.feed_keeps_mark {r : Run} {x : Refusal} (h : r.mark = some x) (f : Frame) : (r.feed f).mark = some x := by
  cases hstep : step (r.state.offer f) with
  | next s => rw [Run.feed_of_next hstep, h]
  | fault y => exact absurd hstep (not_fault y)
  | refused y => rw [Run.feed_of_refused hstep, h, Option.some_or]

theorem Run.feedAll_keeps_mark {r : Run} {x : Refusal} (h : r.mark = some x) (fs : List Frame) :
    (r.feedAll fs).mark = some x := by
  induction fs generalizing r with
  | nil => exact h
  | cons f fs ih => exact ih (Run.feed_keeps_mark h f)

/-- Settles O15: a refusal touches the mark only, and a mark that is set stands before the new one. -/
theorem refusalMarkIsKept : Obligations.RefusalMarkIsKept := by
  intro r f
  refine ⟨fun x hx => ?_, fun fs x hmark => Run.feedAll_keeps_mark hmark fs⟩
  rw [Run.feed_of_refused hx]
  exact ⟨rfl, by cases r.mark <;> simp⟩

/- RESET (R160). -/

theorem activeByte_eq_zero_of_pend {s : State} {k : Nat} (h : s.pend = List.replicate k 0x00) (r : Nat) :
    activeByte s r = 0 := by
  simp [activeByte, h]

/-- Settles O53: a bank of zeros has no active line, whatever the configuration. -/
theorem resetZeroesBlock : Obligations.ResetZeroesBlock := by
  intro s
  refine ⟨_, execReset_next.mpr rfl, rfl, fun i => Five.get_ofFn (fun _ => 0) i, ?_, ?_⟩
  · exact highestAmong_eq_noneLevel fun g _ => activeByte_eq_zero_of_pend rfl _
  · exact fun g => not_not_intro (activeByte_eq_zero_of_pend rfl _)

end Sys2Proof.Machine
end

section
/-! PROOF. Exceptions and idleness (spec/60_exceptions.md R170, R174, R183): no instruction traps, two RAISEs commute on
the pending bank, and a step with no frame waiting holds the state. -/

namespace Sys2Proof.Machine

open Sys2Proof

/-- Settles O9: with an empty queue the step takes no frame. -/
theorem idleHoldsAllState : Obligations.IdleHoldsAllState := by
  intro s hc hq
  exact step_of_queue_nil hc hq

/-- Settles O14: an instruction whose access fits, or that makes none, completes; one that runs past the top is refused
as that. -/
theorem instructionsNeverTrap : Obligations.InstructionsNeverTrap := by
  intro s i hc hw
  exact ⟨exec_completes hc hw, pastTopIsRefused s i hc hw⟩

/-- R174: setting two pending lines in either order gives the same bank. In two bytes the writes do not meet; in one
byte the second keeps the bit of the first. -/
theorem setPending_pend_comm (s : State) (r b r' b' : Nat) :
    ((s.setPending r b).setPending r' b').pend = ((s.setPending r' b').setPending r b).pend := by
  simp only [State.setPending_pend]
  by_cases hr : r = r'
  · subst hr
    by_cases hlt : r < s.pend.length
    · simp only [bankByte_set, hlt, and_self, if_true, List.set_set, BitVec.or_assoc]
      rw [BitVec.or_comm ((1 : Byte) <<< b)]
    · simp only [List.set_eq_of_length_le (Nat.not_lt.mp hlt)]
  · rw [bankByte_set_of_ne _ _ hr, bankByte_set_of_ne _ _ (Ne.symm hr), List.set_comm _ _ hr]

/-- Settles O52: each RAISE sets its pending bit and else changes the response only. -/
theorem raisesCommute : Obligations.RaisesCommute := by
  intro s t u t' u' r1 r2 b1 b2 ht hu ht' hu'
  obtain ⟨-, rfl⟩ := execRaise_next.mp ht
  obtain ⟨-, rfl⟩ := execRaise_next.mp hu
  obtain ⟨-, rfl⟩ := execRaise_next.mp ht'
  obtain ⟨-, rfl⟩ := execRaise_next.mp hu'
  exact setPending_pend_comm s r1.toNat b1.toNat r2.toNat b2.toNat

end Sys2Proof.Machine
end

section
/-! PROOF. The reset state and the invariant (spec/70_reset_and_hazards.md R190, spec/10_state.md R36). -/

namespace Sys2Proof.Machine

open Sys2Proof

/-- The banks and counters meet their bounds by the reset values; a memory with nothing listed is canonical. -/
theorem State.resetWith_wf {c : Config} (hc : c.accepted = true) : (State.resetWith c).wf := by
  obtain ⟨-, hpend, hmask, htimer, -, -⟩ := resetValues c
  refine ⟨hc, hpend, hmask, ?_, rfl⟩
  intro i
  rw [htimer i]
  exact Nat.two_pow_pos _

/-- Settles O17: State.reset is the reset state of REFMAP, which is accepted. -/
theorem resetMeetsInvariant : Obligations.ResetMeetsInvariant :=
  ⟨fun _ => State.resetWith_wf, State.resetWith_wf (by decide)⟩

end Sys2Proof.Machine
end
